-- ==== Sys2Proof/Word.lean ====
section
/-! DEFINITION. The word types of the block: command, response and frame words (R79, R59, R87), samples, pointers. -/

namespace Sys2Proof

/-- A 32-bit word: a command, a sink request, a response word, a CSR, a counter or a frame word (R59, R79, R87, R42). -/
abbrev Word := BitVec 32

/-- One 16-bit two's-complement sample, the `sint16` of R6. -/
abbrev Sample := BitVec 16

/-- An 11-bit pointer or slot index (R4: PTR_W = 11; R19, R22, R23). -/
abbrev Ptr := BitVec 11

/-- One byte of the serialised output stream (R60). -/
abbrev Byte := BitVec 8

end Sys2Proof
end

