-- ==== Sys2Proof/Syntax.lean ====
section
/-! DEFINITION. The instructions: the command and sink-request words of spec/opcode_table.json, one constructor a row (R80). -/

namespace Sys2Proof

/-- One constructor per row of the opcode table. Operands are the raw fields of R81 to R86; R93 says how they are read. -/
inductive Instr where
  /-- NOP (R81, R138). -/
  | nop
  /-- OPEN: `noDev` is the NONE bit 27, `req` is bits 23 to 0, a signed count (R82, R139). -/
  | openEngine (noDev : Bool) (req : BitVec 24)
  /-- CLOSE (R83, R145). -/
  | closeEngine
  /-- ADVANCE: `cycles` is bits 27 to 0 (R84, R94). -/
  | advance (cycles : BitVec 28)
  /-- CSR_READ: `idx` is bits 7 to 0 (R85, R147). -/
  | csrRead (idx : BitVec 8)
  /-- SINK_REQ, on the consumer port: `len` is bits 27 to 0 (R86, R129). -/
  | sinkReq (len : BitVec 28)
  deriving DecidableEq, Repr

/-- The two ports that take instruction words (R80). -/
inductive Port where
  | command | consumer
  deriving DecidableEq, Repr

end Sys2Proof
end

