-- ==== Sys2Proof/WellFormed.lean ====
section
/-! DEFINITION. Which instruction terms stand for a legal word: the only operand check is the CSR index (R42, R54). -/

namespace Sys2Proof

/-- The last defined CSR index (R42). -/
def lastCsr : BitVec 8 := 0x0A#8

/-- R54: a CSR_READ names a defined CSR; every other operand fills its field and is legal at every value. -/
def Instr.wf : Instr → Bool
  | .nop => true
  | .openEngine _ _ => true
  | .closeEngine => true
  | .advance _ => true
  | .csrRead idx => decide (idx ≤ lastCsr)
  | .sinkReq _ => true

/-- The port that carries the instruction (R80). -/
def Instr.port : Instr → Port
  | .nop => .command
  | .openEngine _ _ => .command
  | .closeEngine => .command
  | .advance _ => .command
  | .csrRead _ => .command
  | .sinkReq _ => .consumer

end Sys2Proof
end

