-- ==== Sys2Proof/Decode.lean ====
section
/-! DEFINITION. Decoding of command words and consumer-port words, total, with the reasons of R88 and R90; the encoder of R81 to R86; the opcode table's rows. -/

namespace Sys2Proof

/-- Why a word is no instruction on its port. -/
inductive Reject where
  /-- R88 point 1: the opcode is not 0x0 to 0x4 on the command port. -/
  | reservedOpcode
  /-- R88 point 2: a reserved-zero field is not zero. -/
  | reservedBits
  /-- R88 point 3: CSR_READ of an index above 0x0A. -/
  | reservedCsr
  /-- R90: the opcode is not 0x8 on the consumer port. -/
  | notSinkReq
  deriving DecidableEq, Repr

/-- What a word stands for on its port. -/
inductive Decoded where
  | instr (i : Instr)
  | reject (r : Reject)
  deriving DecidableEq, Repr

/-- OP, bits 31 to 28 (R79). -/
def opField (w : Word) : BitVec 4 := w.extractLsb' 28 4
/-- The payload, bits 27 to 0 (R79): NOP's and CLOSE's reserved field, CYCLES and LEN. -/
def payloadField (w : Word) : BitVec 28 := w.extractLsb' 0 28
/-- NONE, bit 27 (R82). -/
def noneField (w : Word) : Bool := w.getLsbD 27
/-- OPEN's reserved bits 26 to 24 (R82). -/
def openReservedField (w : Word) : BitVec 3 := w.extractLsb' 24 3
/-- REQ, bits 23 to 0 (R82). -/
def reqField (w : Word) : BitVec 24 := w.extractLsb' 0 24
/-- CSR_READ's reserved bits 27 to 8 (R85). -/
def csrReservedField (w : Word) : BitVec 20 := w.extractLsb' 8 20
/-- IDX, bits 7 to 0 (R85). -/
def idxField (w : Word) : BitVec 8 := w.extractLsb' 0 8

/-- R88: the decode of the command port, its three checks in the rule's order (opcode, reserved bits, CSR index). -/
def decodeCommand (w : Word) : Decoded :=
  if opField w = 0x0#4 then
    if payloadField w = 0#28 then .instr .nop else .reject .reservedBits
  else if opField w = 0x1#4 then
    if openReservedField w = 0#3 then .instr (.openEngine (noneField w) (reqField w)) else .reject .reservedBits
  else if opField w = 0x2#4 then
    if payloadField w = 0#28 then .instr .closeEngine else .reject .reservedBits
  else if opField w = 0x3#4 then
    .instr (.advance (payloadField w))
  else if opField w = 0x4#4 then
    if csrReservedField w = 0#20 then
      if idxField w ≤ lastCsr then .instr (.csrRead (idxField w)) else .reject .reservedCsr
    else .reject .reservedBits
  else .reject .reservedOpcode

/-- R86, R90: the decode of the consumer port. -/
def decodeRequest (w : Word) : Decoded :=
  if opField w = 0x8#4 then .instr (.sinkReq (payloadField w)) else .reject .notSinkReq

/-- The decode of a word on a port. -/
def decodeOn (p : Port) (w : Word) : Decoded :=
  match p with
  | .command => decodeCommand w
  | .consumer => decodeRequest w

/-- The OP value of each instruction (R80). -/
def Instr.opcode : Instr → BitVec 4
  | .nop => 0x0#4
  | .openEngine _ _ => 0x1#4
  | .closeEngine => 0x2#4
  | .advance _ => 0x3#4
  | .csrRead _ => 0x4#4
  | .sinkReq _ => 0x8#4

/-- The word of each instruction, field by field from R81 to R86. -/
def encode : Instr → Word
  | .nop => 0x0#4 ++ 0#28
  | .openEngine noDev req => 0x1#4 ++ (BitVec.ofBool noDev ++ (0#3 ++ req))
  | .closeEngine => 0x2#4 ++ 0#28
  | .advance cycles => 0x3#4 ++ cycles
  | .csrRead idx => 0x4#4 ++ (0#20 ++ idx)
  | .sinkReq len => 0x8#4 ++ len

/-- A row of spec/opcode_table.json: a word w belongs to it when `w &&& mask = pattern`. -/
structure OpcodeRow where
  mnemonic : String
  pattern  : Word
  mask     : Word
  deriving DecidableEq, Repr

/-- The rows of spec/opcode_table.json, in its order. -/
def opcodeRows : List OpcodeRow :=
  [ ⟨"NOP", 0x00000000#32, 0xFFFFFFFF#32⟩,
    ⟨"OPEN", 0x10000000#32, 0xF7000000#32⟩,
    ⟨"CLOSE", 0x20000000#32, 0xFFFFFFFF#32⟩,
    ⟨"ADVANCE", 0x30000000#32, 0xF0000000#32⟩,
    ⟨"CSR_READ", 0x40000000#32, 0xFFFFFF00#32⟩,
    ⟨"SINK_REQ", 0x80000000#32, 0xF0000000#32⟩ ]

/-- Each instruction's row. -/
def Instr.mnemonic : Instr → String
  | .nop => "NOP"
  | .openEngine _ _ => "OPEN"
  | .closeEngine => "CLOSE"
  | .advance _ => "ADVANCE"
  | .csrRead _ => "CSR_READ"
  | .sinkReq _ => "SINK_REQ"

/-- The word `w` belongs to the row. -/
def OpcodeRow.matchesWord (r : OpcodeRow) (w : Word) : Bool := decide (w &&& r.mask = r.pattern)

/-- The port the table's words are presented on: OP 0x8 belongs to the consumer port, every other to the command port (R80). -/
def portOf (w : Word) : Port := if opField w = 0x8#4 then .consumer else .command

/-- The one word an instruction occupies (R91), from the table's numbering: every bit above `nbits` is 0. -/
def tableWord (nbits w : Nat) : Word := BitVec.ofNat 32 (w % 2 ^ nbits)

/-- What the decoder reads from a word of the opcode table, on the port that word belongs to. An instruction is exactly
one 32-bit word (R91), so a longer one is none. -/
def decodeTableWord (nbits w : Nat) : Option Instr :=
  if nbits ≤ 32 then
    match decodeOn (portOf (tableWord nbits w)) (tableWord nbits w) with
    | .instr i => some i
    | .reject _ => none
  else none

end Sys2Proof
end

