-- ==== Sys2Proof/Config.lean ====
section
/-! DEFINITION. Build-time parameters (R4, R5), the steps that may be scheduled next (R10) with the environment's own acts (R165), and the free values: which step is scheduled, how long a view lags, and what unwritten ring RAM holds. -/

namespace Sys2Proof

/-- The build-time parameters of R4 that an implementation chooses. The ratios and sizes are numbers, not bits: only
the CSR view of them has a width (R43 to R45). -/
structure Params where
  /-- Frames per frame buffer. -/
  fblen      : Nat
  /-- CPU cycles per intermediate unit. -/
  div1       : Nat
  /-- Audio units per intermediate unit. -/
  mul1       : Nat
  /-- Audio units per sample. -/
  sampleDiv  : Nat
  /-- Frame buffers the ring RAM physically holds. -/
  maxCapImpl : Nat
  /-- Flip-flop stages of each synchronizer. -/
  syncStages : Nat
  deriving DecidableEq, Repr

/-- The defaults of R4. -/
def Params.default : Params :=
  { fblen := 256, div1 := 8, mul1 := 25, sampleDiv := 512, maxCapImpl := 1024, syncStages := 2 }

/-- CAP_MIN of R4 (fixed). -/
def capMin : Nat := 3
/-- CAP_MAX of R4 (fixed). -/
def capMax : Nat := 1024
/-- PMOD = 2^PTR_W of R4 (fixed). -/
def pmod : Nat := 2048

/-- THRESH = FBLEN × SAMPLE_DIV (R4). -/
def Params.thresh (p : Params) : Nat := p.fblen * p.sampleDiv

/-- The number of frame words of the ring RAM (R57). -/
def Params.ramWords (p : Params) : Nat := p.maxCapImpl * p.fblen

/-- R5: a parameter set is legal only if every parameter is in its range, pointer distances are unambiguous and
`aud_acc` cannot wrap inside one ADVANCE. -/
def Params.legal (p : Params) : Bool :=
  decide (1 ≤ p.fblen) && decide (p.fblen ≤ 65535) &&
  decide (1 ≤ p.div1) && decide (p.div1 ≤ 255) &&
  decide (1 ≤ p.mul1) && decide (p.mul1 ≤ 255) &&
  decide (1 ≤ p.sampleDiv) && decide (p.sampleDiv ≤ 65535) &&
  decide (3 ≤ p.maxCapImpl) && decide (p.maxCapImpl ≤ 1024) &&
  decide (2 ≤ p.syncStages) &&
  decide (p.maxCapImpl < pmod) &&
  decide ((2 ^ 28 - 1 + p.div1 - 1) / p.div1 * p.mul1 + p.thresh - 1 < 2 ^ 32)

/-- T(S) of R100: the number of triggers that S cycles of ADVANCE give from zeroed accumulators. -/
def Params.triggersFor (p : Params) (S : Nat) : Nat := (S / p.div1 * p.mul1) / p.thresh

/-- R102: the cumulative cycle count at which the k-th trigger falls, `ceil(k × THRESH / MUL1) × DIV1`. -/
def Params.triggerAt (p : Params) (k : Nat) : Nat :=
  ((k * p.thresh + p.mul1 - 1) / p.mul1) * p.div1

/-- R102: the mean sample rate, in samples per second, of a host that advances `fCpu` cycles per second. -/
def Params.sampleRate (p : Params) (fCpu : Rat) : Rat := fCpu * p.mul1 / (p.div1 * p.sampleDiv)

/-- R102: the mean trigger rate, in triggers per second, of a host that advances `fCpu` cycles per second. -/
def Params.triggerRate (p : Params) (fCpu : Rat) : Rat :=
  fCpu * p.mul1 / (p.div1 * p.sampleDiv * p.fblen)

/-- The three external sound sources (R76, R106). -/
inductive Source where
  | psg | pcm | fm
  deriving DecidableEq, Repr

/-- The five `Seen` views, one a synchronizer (R11, R24, R26, R30, R33, R34). -/
inductive View where
  | rdSeen | wrSeen | runSeen | ackSeen | diagSeen
  deriving DecidableEq, Repr

/-- What a reset cuts off in the middle (R168). -/
structure Cut where
  /-- How many frames the device had taken of the answer to the presented request, if the consumer had begun it. -/
  stream : Option Nat
  /-- How many frames the block had taken from PSG, PCM and FM for the trigger that is due, if it had begun it. -/
  render : Option (Nat × Nat × Nat)
  deriving DecidableEq, Repr

/-- A reset that finds neither a stream nor a trigger in the middle. -/
def Cut.nothing : Cut := { stream := none, render := none }

/-- What may happen next: an agent's step of R10, a synchronizer step S1 of R11, or an act of the environment
(R9, R165). A scheduled step that is not enabled changes nothing. -/
inductive Move where
  /-- The host drives the command port: `some w` is `cmd_valid` = 1 with word `w`, `none` is `cmd_valid` = 0 (R74). -/
  | hostDrive (cmd : Option Word)
  /-- The host takes the response: `rsp_ready` = 1 (R74, R78). -/
  | hostTake
  /-- The audio device drives the request port (R75). -/
  | deviceDrive (req : Option Word)
  /-- The platform sets `dev_ok` and `dev_rate` (R77). -/
  | platform (devOk : Bool) (devRate : Word)
  /-- A sound source makes further frames available on its stream (R76, R107). -/
  | sourceDeliver (k : Source) (frames : List Word)
  /-- P1: accept one command. -/
  | accept
  /-- P2: one TRIGGER. -/
  | trigger
  /-- P3: complete an ADVANCE. -/
  | finishAdvance
  /-- P4: complete an OPEN or CLOSE handshake. -/
  | finishHandshake
  /-- C1: one whole sink request. -/
  | sink
  /-- C2: the consumer start transition. -/
  | start
  /-- C3: the consumer stop transition. -/
  | stop
  /-- S1 on `rd_seen`: forward by at most `n` (R11). -/
  | syncRd (n : Nat)
  /-- S1 on `wr_seen`: forward by at most `n` (R11). -/
  | syncWr (n : Nat)
  /-- S1 on `run_seen`. -/
  | syncRun
  /-- S1 on `ack_seen`. -/
  | syncAck
  /-- S1 on `diag_seen`. -/
  | syncDiag
  /-- `rst_n` is asserted and released (R166), and cuts off what it finds in the middle (R168). -/
  | reset (cut : Cut)
  /-- The platform violates the gray-bus or metastability constraint (R172, R165). -/
  | crossingViolation
  /-- An implementation lets the new `wr_gray` overtake the RAM writes (R170). -/
  | ramOrderViolation
  deriving DecidableEq, Repr, Inhabited

/-- FREE VALUE. Which step is scheduled at the `n`-th draw: "any enabled step of either agent may be scheduled next"
(R10), and when and how far each synchronizer moves is a draw (R11). Used only when the state's own agenda is empty. -/
opaque Config.freeMove : Nat → Move

/-- FREE VALUE. How many steps a view may stay behind a source that does not change, drawn at the `n`-th step, when the
view is first found behind that value of its source: "after finitely many steps" (R11, Fairness), and how many is a
draw. -/
opaque Config.freePatience : Nat → View → Nat

/-- FREE VALUE. What the ring RAM holds, since its `epoch`-th reset, at a frame-word address that has not been written:
"any value" (R66, and item 1 of 93_implementation_defined.md). -/
opaque Config.freeRam : Nat → Nat → Word

end Sys2Proof
end

