-- ==== Sys2Proof/Machine/State.lean ====
section
/-! DEFINITION. Everything the spec gives the machine, by clock domain (10_state.md), the ring RAM (20_memory.md), the environment's pins (30_encoding.md), and the machine right after reset (R56, R166). -/

namespace Sys2Proof.Machine

open Sys2Proof

/-- The engine lifecycle state (R15). -/
inductive EngState where
  | uninit | opened | closed | fault
  deriving DecidableEq, Repr

/-- The sequencer phase (R14). -/
inductive Phase where
  | idle | advancing | opening | closing
  deriving DecidableEq, Repr

/-- The response codes of R87; codes 6 and 7 are never produced. -/
inductive RspCode where
  | ok | illegal | ignored | allocFail | devFail | faulted
  deriving DecidableEq, Repr

/-- A response word on the response port (R87). -/
structure Response where
  data : Word
  code : RspCode
  deriving DecidableEq, Repr

/-- The frames streamed to the device for one sink request (R129): zero frames, kept as their number; the words of a
slot; or the first frames of an answer that a reset cut off (R168). -/
inductive Answer where
  | silence (len : Nat)
  | buffer (frames : List Word)
  | cut (frames : List Word)
  deriving DecidableEq, Repr

/-- Producer-domain state, clock `clk_p` (R14 to R30, and the response register of R56). -/
structure Producer where
  /-- `p_phase` (R14). -/
  phase      : Phase
  /-- `adv_trigs` (R14). -/
  advTrigs   : Word
  /-- `eng_state` (R15). -/
  eng        : EngState
  /-- `disabled` (R16). -/
  disabled   : Bool
  /-- `ill` (R17). -/
  ill        : Bool
  /-- `f_alloc` (R18). -/
  fAlloc     : Bool
  /-- `f_dev` (R18). -/
  fDev       : Bool
  /-- `capacity` (R19). -/
  capacity   : Ptr
  /-- `cpu_acc` (R20). -/
  cpuAcc     : Word
  /-- `aud_acc` (R21). -/
  audAcc     : Word
  /-- `writeIndex` (R22). -/
  writeIndex : Ptr
  /-- `wr_cnt` (R23). -/
  wrCnt      : Ptr
  /-- `wr_gray` (R23). -/
  wrGray     : Ptr
  /-- `rd_seen` = Seen(rd_cnt) (R24). -/
  rdSeen     : Ptr
  /-- `run_p` (R25). -/
  runP       : Bool
  /-- `ack_seen` = Seen(ack_c) (R26). -/
  ackSeen    : Bool
  /-- `trig_count` (R27). -/
  trigCount  : Word
  /-- `drop_count` (R28). -/
  dropCount  : Word
  /-- `fm_rate` (R29). -/
  fmRate     : Word
  /-- `diag_seen` = Seen(diag_req) (R30). -/
  diagSeen   : Bool
  /-- The response port: `none` is `rsp_valid` = 0 (R56, R74, R87). -/
  rsp        : Option Response
  deriving DecidableEq, Repr

/-- Consumer-domain state, clock `clk_c` (R31 to R36). -/
structure Consumer where
  /-- `readIndex` (R31). -/
  readIndex : Ptr
  /-- `rd_cnt` (R32). -/
  rdCnt     : Ptr
  /-- `rd_gray` (R32). -/
  rdGray    : Ptr
  /-- `wr_seen` = Seen(wr_cnt) (R33). -/
  wrSeen    : Ptr
  /-- `run_seen` = Seen(run_p) (R34). -/
  runSeen   : Bool
  /-- `ack_c` (R35). -/
  ackC      : Bool
  /-- `diag_req` (R36). -/
  diagReq   : Bool
  deriving DecidableEq, Repr

/-- What R11 makes a pointer synchronizer remember: whether the pointer was reset to 0 while its view was elsewhere,
so that the view's next move is directly to 0. -/
structure Crossing where
  /-- The next move of `rd_seen` is directly to 0. -/
  rdJump : Bool
  /-- The next move of `wr_seen` is directly to 0. -/
  wrJump : Bool
  deriving DecidableEq, Repr

/-- A view that was found behind its source: the value the source had, and for how many more steps the view may stay
behind that value (R11, Fairness; the model's own, log entry 3). -/
structure Lag where
  source : Nat
  left   : Nat
  deriving DecidableEq, Repr

/-- The lag of each view, where it was found behind its source when it was last looked at. -/
structure Lags where
  rdSeen   : Option Lag
  wrSeen   : Option Lag
  runSeen  : Option Lag
  ackSeen  : Option Lag
  diagSeen : Option Lag
  deriving DecidableEq, Repr

/-- The inputs the environment drives (R74 to R77, R165). -/
structure Env where
  /-- `cmd_valid` and `cmd_word` (R74): `none` is `cmd_valid` = 0. -/
  cmd     : Option Word
  /-- `req_valid` and `req_word` (R75): `none` is `req_valid` = 0. -/
  req     : Option Word
  /-- `dev_ok` (R77). -/
  devOk   : Bool
  /-- `dev_rate` (R77). -/
  devRate : Word
  /-- The frames PSG has to give and the block has not taken, first to come first (R76, R107). -/
  psg     : List Word
  /-- The frames PCM has to give, likewise. -/
  pcm     : List Word
  /-- The frames FM has to give, likewise. -/
  fm      : List Word
  deriving DecidableEq, Repr

/-- What the pulse and stream outputs carried in the step just taken (R75, R76, R77). -/
structure Outputs where
  /-- `fm_init` was pulsed. -/
  fmInit   : Bool
  /-- `srcK_start` was pulsed with `srcK_count` = FBLEN, for all three K together (R106). -/
  srcStart : Bool
  /-- The frames streamed to the audio device, where the step was a sink request or cut one off. -/
  answer   : Option Answer
  deriving DecidableEq, Repr

/-- The ring RAM's written frame words, as (frame-word address, frame word), addresses strictly rising (R57, R58). -/
abbrev Memory := List (Nat × Word)

/-- The whole machine. -/
structure State where
  /-- The build-time parameters (R4), the same for the life of the block. -/
  params   : Params
  /-- Producer-domain registers. -/
  p        : Producer
  /-- Consumer-domain registers. -/
  c        : Consumer
  /-- Pointer-reset bookkeeping of the synchronizers. -/
  x        : Crossing
  /-- The ring RAM. -/
  ram      : Memory
  /-- How many resets the ring RAM has been through: selects the free contents of unwritten words. -/
  ramEpoch : Nat
  /-- The environment's inputs. -/
  env      : Env
  /-- The outputs of the step just taken. -/
  out      : Outputs
  /-- The steps already scheduled, first to happen first; when it is empty the next step is a draw. -/
  agenda   : List Move
  /-- How many steps have been taken: selects the free values of the next one. -/
  draws    : Nat
  /-- How long each view has been behind its source (R11, Fairness). -/
  lags     : Lags
  deriving DecidableEq, Repr

/-- Why a step stops the machine. -/
inductive Fault where
  /-- A ring-RAM access outside addresses 0 to MAX_CAP_IMPL × FBLEN − 1 (R57), raised by `writeFrames` and `readFrames`.
  R65 says no access of a reachable state can do this. Safe: the machine stops where the spec has no address. -/
  | ramOutOfRange
  deriving DecidableEq, Repr

/-- Why a step has no meaning. -/
inductive Refusal where
  /-- An instruction that has no meaning yet, by its mnemonic; raised by no arm of `exec` today. Safe. -/
  | notModelled (mnemonic : String)
  /-- R5: "A model refuses an illegal set"; raised by `step`. Safe. -/
  | illegalParameters
  /-- R165: the host changed a presented command word before it was accepted; raised by `Move.hostDrive`. Safe. -/
  | unstableCommand
  /-- R165: the device changed a presented request word before it was accepted; raised by `Move.deviceDrive`. Safe. -/
  | unstableRequest
  /-- R165, R172: the platform violated the crossing's timing constraint; raised by `Move.crossingViolation`. Safe. -/
  | crossingViolated
  /-- R170: the implementation let the write pointer overtake the RAM writes; raised by `Move.ramOrderViolation`. Safe. -/
  | ramOrderViolated
  deriving DecidableEq, Repr

/-- R56: the producer domain after reset. -/
def Producer.reset : Producer :=
  { phase := .idle, advTrigs := 0, eng := .uninit, disabled := false, ill := false, fAlloc := false, fDev := false,
    capacity := 0, cpuAcc := 0, audAcc := 0, writeIndex := 0, wrCnt := 0, wrGray := 0, rdSeen := 0, runP := false,
    ackSeen := false, trigCount := 0, dropCount := 0, fmRate := 0, diagSeen := false, rsp := none }

/-- R56: the consumer domain after reset. -/
def Consumer.reset : Consumer :=
  { readIndex := 0, rdCnt := 0, rdGray := 0, wrSeen := 0, runSeen := false, ackC := false, diagReq := false }

/-- R166: "every `Seen` view equals its source" after reset, so no view has a pointer reset to catch up with. -/
def Crossing.reset : Crossing := { rdJump := false, wrJump := false }

/-- No view has been found behind its source (R166). -/
def Lags.reset : Lags := { rdSeen := none, wrSeen := none, runSeen := none, ackSeen := none, diagSeen := none }

/-- No pulse and no frame (R166). -/
def Outputs.quiet : Outputs := { fmInit := false, srcStart := false, answer := none }

/-- The environment as State.reset has it: nothing presented, the device present at the rate that 95_test_vectors.md
assumes "unless a vector says otherwise" (DESIGN CHOICE, log entry 9). -/
def Env.reset : Env :=
  { cmd := none, req := none, devOk := true, devRate := 48828, psg := [], pcm := [], fm := [] }

/-- The machine right after reset (R56, R166, R167), with the default parameters of R4. -/
def State.reset : State :=
  { params := Params.default, p := Producer.reset, c := Consumer.reset, x := Crossing.reset, ram := [], ramEpoch := 0,
    env := Env.reset, out := Outputs.quiet, agenda := [], draws := 0, lags := Lags.reset }

end Sys2Proof.Machine
end

