-- ==== Sys2Proof/Machine/Ops.lean ====
section
/-! DEFINITION. The named operations over the state: ring-RAM access (R57, R58, R61), the response (R87), the fatal-fault entry and the reset that is its only return (R154, R155, R166), pointer resets and the Emit primitive (R134). -/

namespace Sys2Proof.Machine

open Sys2Proof

/-! ### The ring RAM -/

/-- The canonical form: addresses strictly rising. An unlisted address reads as a free value, which no listed word is
known to equal, so no entry is ever dropped. -/
abbrev Memory.wf (m : Memory) : Prop := (m.map Prod.fst).Pairwise (· < ·)

/-- The word written at an address, if any. -/
def Memory.get? : Memory → Nat → Option Word
  | [], _ => none
  | (b, u) :: m, a => if a = b then some u else Memory.get? m a

/-- Write one frame word, keeping the canonical form. -/
def Memory.put : Memory → Nat → Word → Memory
  | [], a, v => [(a, v)]
  | (b, u) :: m, a, v =>
    if a < b then (a, v) :: (b, u) :: m
    else if a = b then (a, v) :: m
    else (b, u) :: Memory.put m a v

/-- MemRead(addr, 1) on the words themselves: what one frame-word address reads as. A word that was never written is a
free value (R66). -/
def Memory.read (m : Memory) (epoch a : Nat) : Word :=
  match m.get? a with
  | some v => v
  | none => Config.freeRam epoch a

/-- MemRead(addr, 1) of the state (R8, R58). -/
def State.ramRead (s : State) (a : Nat) : Word := s.ram.read s.ramEpoch a

/-- The frame-word address of frame `i` of slot `slot` (R58). -/
def frameAddr (p : Params) (slot i : Nat) : Nat := slot * p.fblen + i

/-- MemWrite(addr + k, 1, ws[k]) for every word of `ws` in order (R111), in a RAM of `size` words. -/
def writeFrames (size : Nat) : Memory → Nat → List Word → Except Fault Memory
  | m, _, [] => .ok m
  | m, a, w :: ws => if a < size then writeFrames size (m.put a w) (a + 1) ws else .error .ramOutOfRange

/-- MemRead(addr + k, 1) for k = 0 … n − 1 in order (R118), in a RAM of `size` words. -/
def readFrames (size : Nat) (m : Memory) (epoch : Nat) : Nat → Nat → Except Fault (List Word)
  | _, 0 => .ok []
  | a, n + 1 =>
    if a < size then
      match readFrames size m epoch (a + 1) n with
      | .ok ws => .ok (m.read epoch a :: ws)
      | .error e => .error e
    else .error .ramOutOfRange

/-! ### Responses and events -/

/-- The 3-bit `rsp_code` of each code (R87). -/
def RspCode.code : RspCode → BitVec 3
  | .ok => 0 | .illegal => 1 | .ignored => 2 | .allocFail => 3 | .devFail => 4 | .faulted => 5

/-- The 2-bit `eng_state` code (R15). -/
def EngState.code : EngState → BitVec 2
  | .uninit => 0 | .opened => 1 | .closed => 2 | .fault => 3

/-- The 2-bit `p_phase` code (R14). -/
def Phase.code : Phase → BitVec 2
  | .idle => 0 | .advancing => 1 | .opening => 2 | .closing => 3

/-- Respond(data, code): complete the current command with a response word (R8, R87). -/
def State.respond (s : State) (data : Word) (code : RspCode) : State :=
  { s with p.rsp := some { data := data, code := code } }

/-- Respond as an outcome. -/
def done (s : State) (data : Word) (code : RspCode) : Host.Outcome State Fault Refusal :=
  .next (s.respond data code)

/-- The ILLEGAL event (R88, R151): `ill` is set, the response is (0, ILLEGAL), nothing else changes. -/
def takeIllegal (s : State) : State := State.respond { s with p.ill := true } 0 .illegal

/-- The two fatal causes (R150). -/
inductive FatalCause where
  | alloc | dev
  deriving DecidableEq, Repr

/-- The FAULT entry, one operation for both causes (R154): exactly one cause bit is set, `eng_state` becomes FAULT and
the response carries the matching code. Nothing else is saved or changed. -/
def enterFault (cause : FatalCause) (s : State) : State :=
  match cause with
  | .alloc => State.respond { s with p.fAlloc := true, p.eng := .fault } 0 .allocFail
  | .dev => State.respond { s with p.fDev := true, p.eng := .fault } 0 .devFail

/-- Reset, the only way out of FAULT (R155, R166, R168): every register of both domains takes its reset value, an
operation in progress is abandoned without response, the outputs are quiet, and the ring RAM holds any value (R56). The
parameters, the environment's inputs, the schedule and what the outputs carried before are not the block's registers
and stay. -/
def State.afterReset (s : State) : State :=
  { s with p := Producer.reset, c := Consumer.reset, x := Crossing.reset, ram := [], ramEpoch := s.ramEpoch + 1 }

/-! ### Pointer resets -/

/-- `writeIndex`, `wr_cnt` and `wr_gray` become 0 (R143, R146); if the consumer's view is elsewhere it will move
directly to 0 (R11). -/
def State.resetWritePointers (s : State) : State :=
  { s with p.writeIndex := 0, p.wrCnt := 0, p.wrGray := 0, x.wrJump := decide (s.c.wrSeen ≠ 0) }

/-- `readIndex`, `rd_cnt` and `rd_gray` become 0 (R136); if the producer's view is elsewhere it will move directly to 0
(R11). -/
def State.resetReadPointers (s : State) : State :=
  { s with c.readIndex := 0, c.rdCnt := 0, c.rdGray := 0, x.rdJump := decide (s.p.rdSeen ≠ 0) }

/-! ### The output stream -/

/-- The frames of an answer, first to last (R129, R133). -/
def Answer.words : Answer → List Word
  | .silence len => List.replicate len 0
  | .buffer frames => frames
  | .cut frames => frames

/-- The number of frames of an answer. -/
def Answer.length : Answer → Nat
  | .silence len => len
  | .buffer frames => frames.length
  | .cut frames => frames.length

/-- Pair each frame with its `out_last`: 1 on the last frame only (R75, R134). -/
def markLast : List Word → List (Word × Bool)
  | [] => []
  | [w] => [(w, true)]
  | w :: v :: ws => (w, false) :: markLast (v :: ws)

/-- The (`out_frame`, `out_last`) transfers of an answer, in order (R134). One that was cut off has no `out_last` (R168). -/
def Answer.beats : Answer → List (Word × Bool)
  | .silence len => markLast (List.replicate len 0)
  | .buffer frames => markLast frames
  | .cut frames => frames.map (fun w => (w, false))

/-- An answer of which the device has taken `taken` frames when a reset cuts it off, its last frame never among them
(R168). -/
def Answer.cutAfter (a : Answer) (taken : Nat) : Answer := .cut (a.words.take (min taken (a.length - 1)))

/-- Emit every frame of an answer to the audio device (R134). The device's back-pressure only delays when the step ends,
so the whole stream belongs to one step (R10). -/
def State.emit (s : State) (a : Answer) : State := { s with out.answer := some a }

/-! ### Output levels -/

/-- The `fault` output (R74). -/
def State.faultPin (s : State) : Bool := decide (s.p.eng = .fault)
/-- The `diag` output (R75). -/
def State.diagPin (s : State) : Bool := s.c.diagReq
/-- The `fm_init_rate` output (R77). -/
def State.fmInitRate (s : State) : Word := s.p.fmRate
/-- The `srcK_count` outputs, "always FBLEN" (R76). -/
def State.srcCount (s : State) : BitVec 16 := BitVec.ofNat 16 s.params.fblen
/-- The `rsp_valid` output (R74). -/
def State.rspValid (s : State) : Bool := s.p.rsp.isSome
/-- The `cmd_ready` output: IDLE and no response pending (R74). -/
def State.cmdReady (s : State) : Bool := decide (s.p.phase = .idle) && !s.rspValid
/-- The `req_ready` output: 1 between requests, and the consumer is always between requests when the model looks at it
(R75, R37, R137). -/
def State.reqReady (_ : State) : Bool := true

end Sys2Proof.Machine
end

