-- ==== Sys2Proof/Machine/Operands.lean ====
section
/-! DEFINITION. How operands are read from their fields (R93), the capacity clamp (R115), and the lanes and bytes of a frame word (R59, R60). -/

namespace Sys2Proof.Machine

open Sys2Proof

/-- `cycles = zext_32(w[27:0])` (R93). -/
def cyclesOf (cycles : BitVec 28) : Nat := cycles.toNat

/-- `req = sext_32(w[23:0])` (R93). -/
def reqOf (req : BitVec 24) : Int := req.toInt

/-- `len = zext_32(w[27:0])` (R93). -/
def lenOf (len : BitVec 28) : Nat := len.toNat

/-- CLAMPCAP(req) = clamp(req, CAP_MIN, CAP_MAX) (R115, R7). -/
def clampCap (req : Int) : Nat := (min (max req capMin) capMax).toNat

/-- The left sample of a frame word, bits 15 to 0 (R59). -/
def leftLane (f : Word) : Sample := f.extractLsb' 0 16

/-- The right sample of a frame word, bits 31 to 16 (R59). -/
def rightLane (f : Word) : Sample := f.extractLsb' 16 16

/-- The frame word of a left and a right sample (R59). -/
def frameWord (left right : Sample) : Word := right ++ left

/-- The bytes of a frame word where a platform serialises the output stream: little-endian, left sample first (R60). -/
def frameBytes (f : Word) : List Byte :=
  [(leftLane f).extractLsb' 0 8, (leftLane f).extractLsb' 8 8,
   (rightLane f).extractLsb' 0 8, (rightLane f).extractLsb' 8 8]

/-- The byte stream of an answer (R60). -/
def Answer.bytes (a : Answer) : List Byte := a.words.flatMap frameBytes

end Sys2Proof.Machine
end

