-- ==== Sys2Proof/Machine/Crossing.lean ====
section
/-! DEFINITION. The clock-domain crossing: gray code (R120), pointer distances (R128), the two fill-level views (R38 to R41), and the synchronizer steps S1 (R11, R121, R122). -/

namespace Sys2Proof.Machine

open Sys2Proof

/-- `gray(b) = b XOR (b >> 1)` (R120). -/
def gray (b : Ptr) : Ptr := b ^^^ (b >>> 1)

/-- One bit of the inverse: with b[i+1] the last bit found, append b[i] = b[i+1] XOR g[i] (R120). -/
def binStep (g acc : Ptr) (i : Nat) : Ptr :=
  (acc <<< 1) ||| (BitVec.ofBool (xor (acc.getLsbD 0) (g.getLsbD i))).setWidth 11

/-- `bin(g)`: b[10] = g[10], then b[9] down to b[0] (R120). -/
def bin (g : Ptr) : Ptr := [10, 9, 8, 7, 6, 5, 4, 3, 2, 1, 0].foldl (binStep g) 0

/-- `(a − b) mod PMOD` (R7, R128). -/
def ptrDist (a b : Ptr) : Nat := (a - b).toNat

/-- The producer view of the fill level (R40). -/
def State.countP (s : State) : Nat := ptrDist s.p.wrCnt s.p.rdSeen

/-- The consumer view of the fill level (R41). -/
def State.countC (s : State) : Nat := ptrDist s.c.wrSeen s.c.rdCnt

/-- Inside a CLOSE window: from the consumer stop step to the completion of the CLOSE (R38). -/
def State.closeWindow (s : State) : Bool := decide (s.p.phase = .closing) && !s.c.ackC

/-- The source's `count` (R38). -/
def State.count (s : State) : Nat := if s.closeWindow then 0 else ptrDist s.p.wrCnt s.c.rdCnt

/-- A pointer view's S1 step (R11): forward by at most `n`, never past the pointer's present value `x`. -/
def forward (seen x : Ptr) (n : Nat) : Ptr := seen + BitVec.ofNat 11 (min n (ptrDist x seen))

/-- S1 on `rd_seen`: it reads the pointer as it crosses, gray-coded (R24, R121). After a pointer reset it stays or moves
directly to 0 (R11). -/
def syncRd (n : Nat) (s : State) : State :=
  if n = 0 then s
  else if s.x.rdJump then { s with p.rdSeen := 0, x.rdJump := false }
  else { s with p.rdSeen := forward s.p.rdSeen (bin s.c.rdGray) n }

/-- S1 on `wr_seen` (R33, R121, R11). -/
def syncWr (n : Nat) (s : State) : State :=
  if n = 0 then s
  else if s.x.wrJump then { s with c.wrSeen := 0, x.wrJump := false }
  else { s with c.wrSeen := forward s.c.wrSeen (bin s.p.wrGray) n }

/-- S1 on `run_seen` (R34, R122). -/
def syncRun (s : State) : State := { s with c.runSeen := s.p.runP }

/-- S1 on `ack_seen` (R26, R122). -/
def syncAck (s : State) : State := { s with p.ackSeen := s.c.ackC }

/-- S1 on `diag_seen` (R30, R122). -/
def syncDiag (s : State) : State := { s with p.diagSeen := s.c.diagReq }

end Sys2Proof.Machine
end

