-- ==== Sys2Proof/Machine/Flags.lean ====
section
/-! DEFINITION. The status flags and the CSR view (R42 to R55). The block has no condition codes (R55). -/

namespace Sys2Proof.Machine

open Sys2Proof

/-- One bit of a CSR. -/
def flagBit (b : Bool) : BitVec 1 := BitVec.ofBool b

/-- CSR 0x03 STATUS (R46): from bit 31 down, 0s, ACK, RUN, DIAG, F_DEV, F_ALLOC, ILL, DISABLED, STATE. -/
def statusWord (p : Producer) : Word :=
  0#23 ++ (flagBit p.ackSeen ++ (flagBit p.runP ++ (flagBit p.diagSeen ++ (flagBit p.fDev ++
    (flagBit p.fAlloc ++ (flagBit p.ill ++ (flagBit p.disabled ++ p.eng.code)))))))

/-- CSR 0x02 CFG_RATIO (R45): SAMPLE_DIV, MUL1, DIV1 from the high bits down. -/
def cfgRatioWord (q : Params) : Word :=
  BitVec.ofNat 16 q.sampleDiv ++ (BitVec.ofNat 8 q.mul1 ++ BitVec.ofNat 8 q.div1)

/-- CSR 0x07 WR_STATE (R50): `wr_cnt` in bits 26 to 16, `writeIndex` in bits 10 to 0. -/
def wrStateWord (p : Producer) : Word := 0#5 ++ (p.wrCnt ++ (0#5 ++ p.writeIndex))

/-- The value of each defined CSR (R43 to R53); none for the reserved indices (R54). -/
def csrValue (idx : BitVec 8) (s : State) : Option Word :=
  match idx.toNat with
  | 0x00 => some ((BitVec.ofNat 16 s.params.fblen).setWidth 32)
  | 0x01 => some ((BitVec.ofNat 11 s.params.maxCapImpl).setWidth 32)
  | 0x02 => some (cfgRatioWord s.params)
  | 0x03 => some (statusWord s.p)
  | 0x04 => some (s.p.capacity.setWidth 32)
  | 0x05 => some s.p.cpuAcc
  | 0x06 => some s.p.audAcc
  | 0x07 => some (wrStateWord s.p)
  | 0x08 => some ((s.p.wrCnt - s.p.rdSeen).setWidth 32)
  | 0x09 => some s.p.trigCount
  | 0x0A => some s.p.dropCount
  | _ => none

end Sys2Proof.Machine
end

