-- ==== Sys2Proof/Machine/Ring.lean ====
section
/-! DEFINITION. The ring buffer's operations TRY_RESERVE, PUBLISH and CONSUME (42_ring_buffer.md). -/

namespace Sys2Proof.Machine

open Sys2Proof

/-- The index increment `(x + 1 == capacity) ? 0 : x + 1` (R119). -/
def nextIndex (x capacity : Ptr) : Ptr := if x + 1 = capacity then 0 else x + 1

/-- TRY_RESERVE (R116, R105): the producer's view is below capacity. It changes nothing. -/
def tryReserve (s : State) : Bool := decide (s.countP < s.p.capacity.toNat)

/-- PUBLISH (R117): advance `writeIndex`, `wr_cnt` and `wr_gray`. -/
def publish (s : State) : State :=
  { s with p.writeIndex := nextIndex s.p.writeIndex s.p.capacity, p.wrCnt := s.p.wrCnt + 1,
           p.wrGray := gray (s.p.wrCnt + 1) }

/-- The release half of CONSUME (R118): advance `readIndex`, `rd_cnt` and `rd_gray`, after the last read. -/
def release (s : State) : State :=
  { s with c.readIndex := nextIndex s.c.readIndex s.p.capacity, c.rdCnt := s.c.rdCnt + 1,
           c.rdGray := gray (s.c.rdCnt + 1) }

/-- What CONSUME returns. -/
inductive Consumed where
  | empty
  | data (frames : List Word) (s : State)
  | fault (f : Fault)
  deriving DecidableEq, Repr

/-- CONSUME (R118): EMPTY when the consumer's view is 0, else the words of slot `readIndex` and then the release. -/
def consume (s : State) : Consumed :=
  if s.countC = 0 then .empty
  else
    match readFrames s.params.ramWords s.ram s.ramEpoch (frameAddr s.params s.c.readIndex.toNat 0) s.params.fblen with
    | .ok ws => .data ws (release s)
    | .error f => .fault f

end Sys2Proof.Machine
end

