-- ==== Sys2Proof/Machine/Mixer.lean ====
section
/-! DEFINITION. The frame mixer: MIXFRAME and the TRIGGER micro-sequence (41_mixer.md). -/

namespace Sys2Proof.Machine

open Sys2Proof

/-- `sat16(q) = clamp(q, −32768, 32767)` (R108, R110). -/
def sat16 (q : Int) : Int := min (max q (-32768)) 32767

/-- One channel of MIXFRAME (R108): the exact 18-bit sum, divided by 3 toward zero, through the saturation stage. -/
def mixLane (a b c : Sample) : Sample :=
  BitVec.ofInt 16 (sat16 ((a.signExtend 18 + b.signExtend 18 + c.signExtend 18).toInt.tdiv 3))

/-- MIXFRAME (R108): the two channels are independent lanes. -/
def mixFrame (fa fb fc : Word) : Word :=
  frameWord (mixLane (leftLane fa) (leftLane fb) (leftLane fc)) (mixLane (rightLane fa) (rightLane fb) (rightLane fc))

/-- The mixed frames of a trigger, in order (R104). -/
def mixFrames : List Word → List Word → List Word → List Word
  | a :: as, b :: bs, c :: cs => mixFrame a b c :: mixFrames as bs cs
  | _, _, _ => []

/-- Every source has FBLEN frames to give: what a TRIGGER needs to complete (R106, R178). -/
def sourcesReady (s : State) : Bool :=
  decide (s.params.fblen ≤ s.env.psg.length) && decide (s.params.fblen ≤ s.env.pcm.length) &&
  decide (s.params.fblen ≤ s.env.fm.length)

/-- SrcRender of all three sources (R106): start them together, and take exactly FBLEN frames from each stream. -/
def renderSources (s : State) : State :=
  { s with env.psg := s.env.psg.drop s.params.fblen, env.pcm := s.env.pcm.drop s.params.fblen,
           env.fm := s.env.fm.drop s.params.fblen, out.srcStart := true }

/-- The frame buffer this trigger mixes, from the frames the sources deliver next (R104). -/
def mixedBuffer (s : State) : List Word :=
  mixFrames (s.env.psg.take s.params.fblen) (s.env.pcm.take s.params.fblen) (s.env.fm.take s.params.fblen)

/-- Count a trigger (R113). -/
def countTrigger (s : State) : State := { s with p.trigCount := s.p.trigCount + 1 }

/-- Overrun: discard the mixed frames and count the drop (R112). -/
def dropBuffer (s : State) : State := { s with p.dropCount := s.p.dropCount + 1 }

/-- TRIGGER (R104): reserve once at the start, render all three sources, mix, publish or drop, count. -/
def trigger (s : State) : Except Fault State :=
  if tryReserve s then
    match writeFrames s.params.ramWords s.ram (frameAddr s.params s.p.writeIndex.toNat 0) (mixedBuffer s) with
    | .ok m => .ok (countTrigger (publish { renderSources s with ram := m }))
    | .error f => .error f
  else .ok (countTrigger (dropBuffer (renderSources s)))

end Sys2Proof.Machine
end

