-- ==== Sys2Proof/Machine/Converter.lean ====
section
/-! DEFINITION. The clock converter: ADVANCE, its trigger loop P2 and its completion P3 (40_clock_converter.md). -/

namespace Sys2Proof.Machine

open Sys2Proof

/-- STAGE1(cycles) (R95). Both accumulators are written modulo 2^32, where R5 keeps them below it. -/
def stage1 (cycles : Nat) (s : State) : State :=
  { s with
    p.cpuAcc := BitVec.ofNat 32 ((s.p.cpuAcc.toNat + cycles) % s.params.div1),
    p.audAcc := BitVec.ofNat 32
      (s.p.audAcc.toNat + (s.p.cpuAcc.toNat + cycles) / s.params.div1 * s.params.mul1) }

/-- ADVANCE, step P1 (R94, R98): FAULTED in FAULT, a no-op outside OPEN, else stage 1 and the trigger loop begins. -/
def execAdvance (cycles : BitVec 28) (s : State) : Host.Outcome State Fault Refusal :=
  if s.p.eng = .fault then done s 0 .faulted
  else if s.p.eng ≠ .opened then done s 0 .ok
  else .next { stage1 (cyclesOf cycles) s with p.advTrigs := 0, p.phase := .advancing }

/-- A trigger of the loop is due: ADVANCING and `aud_acc ≥ THRESH` (R96). -/
def triggerDue (s : State) : Bool :=
  decide (s.p.phase = .advancing) && decide (s.params.thresh ≤ s.p.audAcc.toNat)

/-- `aud_acc <- aud_acc - THRESH` (R96). -/
def takeThresh (s : State) : State :=
  { s with p.audAcc := BitVec.ofNat 32 (s.p.audAcc.toNat - s.params.thresh) }

/-- Step P2 (R94, R96, R97): one iteration of the trigger loop, held while a source has not delivered (R178). -/
def stepTrigger (s : State) : Host.Outcome State Fault Refusal :=
  if triggerDue s && sourcesReady s then
    match trigger (takeThresh s) with
    | .ok t => .next { t with p.advTrigs := t.p.advTrigs + 1 }
    | .error f => .fault f
  else .next s

/-- Step P3 (R94, R99): the loop is over, and the response carries the number of triggers. -/
def stepFinishAdvance (s : State) : State :=
  if s.p.phase = .advancing ∧ s.p.audAcc.toNat < s.params.thresh then
    State.respond { s with p.phase := .idle } s.p.advTrigs .ok
  else s

end Sys2Proof.Machine
end

