-- ==== Sys2Proof/Machine/Sink.lean ====
section
/-! DEFINITION. The consumer port: SINK_REQ (step C1), bad requests, the start step C2 and the stop step C3 (43_audio_sink.md). -/

namespace Sys2Proof.Machine

open Sys2Proof

/-- BAD_REQ (R130, R90): set `diag_req`, answer with exactly `len` zero frames, consume nothing. -/
def badRequest (len : Nat) (s : State) : State := State.emit { s with c.diagReq := true } (.silence len)

/-- A well-formed request (R131 to R133): silence while not running or on underrun, else the slot's words verbatim. -/
def serveRequest (s : State) : Host.Outcome State Fault Refusal :=
  if s.c.ackC = false then .next (s.emit (.silence s.params.fblen))
  else
    match consume s with
    | .empty => .next (s.emit (.silence s.params.fblen))
    | .data ws t => .next (t.emit (.buffer ws))
    | .fault f => .fault f

/-- SINK_REQ (R129): the length check first, in every engine state. -/
def execSinkReq (len : BitVec 28) (s : State) : Host.Outcome State Fault Refusal :=
  if lenOf len ≠ s.params.fblen then .next (badRequest (lenOf len) s) else serveRequest s

/-- The consumer start step C2 (R135). -/
def stepStart (s : State) : State :=
  if s.c.ackC = false ∧ s.c.runSeen = true ∧ s.c.wrSeen = 0 then { s with c.ackC := true } else s

/-- The consumer stop step C3 (R136). -/
def stepStop (s : State) : State :=
  if s.c.ackC = true ∧ s.c.runSeen = false then { s.resetReadPointers with c.ackC := false } else s

end Sys2Proof.Machine
end

