-- ==== Sys2Proof/Machine/Lifecycle.lean ====
section
/-! DEFINITION. The lifecycle and status commands NOP, OPEN, CLOSE, CSR_READ, and the handshake completion P4 (44_lifecycle.md). -/

namespace Sys2Proof.Machine

open Sys2Proof

/-- NOP (R138). -/
def execNop (s : State) : Host.Outcome State Fault Refusal := done s 0 .ok

/-- OPEN_SUCCESS up to its hold, step P1 (R143). -/
def openSuccess (cap : Nat) (s : State) : State :=
  { s.resetWritePointers with
    p.capacity := BitVec.ofNat 11 cap, p.cpuAcc := 0, p.audAcc := 0, p.trigCount := 0, p.dropCount := 0,
    p.fmRate := s.env.devRate, out.fmInit := true, p.runP := true, p.phase := .opening }

/-- OPEN (R139 to R144), its checks in the order of R153. -/
def execOpen (noDev : Bool) (req : BitVec 24) (s : State) : Host.Outcome State Fault Refusal :=
  if s.p.eng = .fault then done s 0 .faulted
  else if s.p.eng = .opened ∨ s.p.disabled = true then done s 0 .ignored
  else if noDev then done { s with p.disabled := true } 0 .ok
  else if s.params.maxCapImpl < clampCap (reqOf req) then .next (enterFault .alloc s)
  else if s.env.devOk = false then .next (enterFault .dev s)
  else .next (openSuccess (clampCap (reqOf req)) s)

/-- CLOSE_SEQUENCE up to its hold, step P1 (R146). -/
def closeSequence (s : State) : State := { s with p.runP := false, p.phase := .closing }

/-- CLOSE (R145). -/
def execClose (s : State) : Host.Outcome State Fault Refusal :=
  if s.p.eng = .fault then done s 0 .faulted
  else if s.p.eng ≠ .opened then done s 0 .ok
  else .next (closeSequence s)

/-- CSR_READ (R147); a reserved index is ILLEGAL (R54), which the decoder already finds (R88). -/
def execCsrRead (idx : BitVec 8) (s : State) : Host.Outcome State Fault Refusal :=
  match csrValue idx s with
  | some v => done s v .ok
  | none => .next (takeIllegal s)

/-- The end of OPEN_SUCCESS, once its hold lifts (R143). -/
def openComplete (s : State) : State :=
  State.respond { s with p.eng := .opened, p.phase := .idle } (s.p.capacity.setWidth 32) .ok

/-- The end of CLOSE_SEQUENCE, once its hold lifts (R146). -/
def closeComplete (s : State) : State :=
  State.respond { s.resetWritePointers with p.eng := .closed, p.phase := .idle } 0 .ok

/-- Step P4: the completion of an OPEN or CLOSE whose hold has lifted (R143, R146). -/
def stepFinishHandshake (s : State) : State :=
  match s.p.phase with
  | .opening => if s.p.ackSeen = true then openComplete s else s
  | .closing => if s.p.ackSeen = false ∧ s.p.rdSeen = 0 then closeComplete s else s
  | .idle => s
  | .advancing => s

end Sys2Proof.Machine
end

