-- ==== Sys2Proof/Machine/Environment.lean ====
section
/-! DEFINITION. What the outside does to the block's inputs (R9, R74 to R78, R165). -/

namespace Sys2Proof.Machine

open Sys2Proof

/-- The host drives the command port. A presented word must be held unchanged until it is taken: a host that changes or
withdraws it is refused (R78, R165). -/
def driveCommand (cmd : Option Word) (s : State) : Host.Outcome State Fault Refusal :=
  match s.env.cmd with
  | none => .next { s with env.cmd := cmd }
  | some w => if cmd = some w then .next s else .refused .unstableCommand

/-- The audio device drives the request port, under the same duty (R78, R165). -/
def driveRequest (req : Option Word) (s : State) : Host.Outcome State Fault Refusal :=
  match s.env.req with
  | none => .next { s with env.req := req }
  | some w => if req = some w then .next s else .refused .unstableRequest

/-- The host takes the response (R74, R78). -/
def takeResponse (s : State) : State := { s with p.rsp := none }

/-- The platform sets the device pins (R77). An OPEN samples them in one step, so they are stable during it (R165). -/
def drivePlatform (devOk : Bool) (devRate : Word) (s : State) : State :=
  { s with env.devOk := devOk, env.devRate := devRate }

/-- A source makes further frames available, after those it already has (R76). -/
def deliverFrames (k : Source) (frames : List Word) (s : State) : State :=
  match k with
  | .psg => { s with env.psg := s.env.psg ++ frames }
  | .pcm => { s with env.pcm := s.env.pcm ++ frames }
  | .fm => { s with env.fm := s.env.fm ++ frames }

end Sys2Proof.Machine
end

