-- ==== Sys2Proof/Machine/Dispatch.lean ====
section
/-! DEFINITION. The meaning of each instruction, one arm a constructor. -/

namespace Sys2Proof.Machine

open Sys2Proof

def exec (i : Instr) (s : State) : Host.Outcome State Fault Refusal :=
  match i with
  | .nop => Sys2Proof.Machine.execNop s
  | .openEngine noDev req => Sys2Proof.Machine.execOpen noDev req s
  | .closeEngine => Sys2Proof.Machine.execClose s
  | .advance cycles => Sys2Proof.Machine.execAdvance cycles s
  | .csrRead idx => Sys2Proof.Machine.execCsrRead idx s
  | .sinkReq len => Sys2Proof.Machine.execSinkReq len s

end Sys2Proof.Machine
end

