-- ==== Sys2Proof/Machine/Fairness.lean ====
section
/-! DEFINITION. Fairness of the synchronizers (R11): how long each view has been behind its source, and when its move is due. -/

namespace Sys2Proof.Machine

open Sys2Proof

/-- The five views. -/
def views : List View := [.rdSeen, .wrSeen, .runSeen, .ackSeen, .diagSeen]

/-- The value of a view's source (R24, R26, R30, R33, R34). A level counts as 0 or 1. -/
def viewSource (v : View) (s : State) : Nat :=
  match v with
  | .rdSeen => s.c.rdCnt.toNat
  | .wrSeen => s.p.wrCnt.toNat
  | .runSeen => s.p.runP.toNat
  | .ackSeen => s.c.ackC.toNat
  | .diagSeen => s.c.diagReq.toNat

/-- The value of a view. -/
def viewSeen (v : View) (s : State) : Nat :=
  match v with
  | .rdSeen => s.p.rdSeen.toNat
  | .wrSeen => s.c.wrSeen.toNat
  | .runSeen => s.c.runSeen.toNat
  | .ackSeen => s.p.ackSeen.toNat
  | .diagSeen => s.p.diagSeen.toNat

/-- A view is behind its source. -/
def behind (v : View) (s : State) : Bool := decide (viewSeen v s ≠ viewSource v s)

/-- The S1 step that brings a view to its source: as far forward as a pointer distance can be. -/
def catchUp (v : View) : Move :=
  match v with
  | .rdSeen => .syncRd 2047
  | .wrSeen => .syncWr 2047
  | .runSeen => .syncRun
  | .ackSeen => .syncAck
  | .diagSeen => .syncDiag

/-- The lag of one view. -/
def lagOf (v : View) (l : Lags) : Option Lag :=
  match v with
  | .rdSeen => l.rdSeen
  | .wrSeen => l.wrSeen
  | .runSeen => l.runSeen
  | .ackSeen => l.ackSeen
  | .diagSeen => l.diagSeen

/-- The lag of a view, looked at now: none once it equals its source; one step less while the source stays unchanged;
else a new draw. -/
def nextLag (v : View) (s : State) : Option Lag :=
  if behind v s then
    match lagOf v s.lags with
    | some l =>
      if l.source = viewSource v s then some { l with left := l.left - 1 }
      else some { source := viewSource v s, left := Config.freePatience s.draws v }
    | none => some { source := viewSource v s, left := Config.freePatience s.draws v }
  else none

/-- The lags of all views, looked at now. -/
def nextLags (s : State) : Lags :=
  { rdSeen := nextLag .rdSeen s, wrSeen := nextLag .wrSeen s, runSeen := nextLag .runSeen s,
    ackSeen := nextLag .ackSeen s, diagSeen := nextLag .diagSeen s }

/-- A view's move is due: its source has kept its value for as many steps as were drawn, and the view is still behind. -/
def isOverdue (v : View) (s : State) : Bool :=
  behind v s &&
    match lagOf v s.lags with
    | some l => decide (l.source = viewSource v s) && decide (l.left = 0)
    | none => false

/-- A view whose move is due, if there is one. -/
def State.overdue (s : State) : Option View := views.find? (fun v => isOverdue v s)

end Sys2Proof.Machine
end

