-- ==== Sys2Proof/Machine/Moves.lean ====
section
/-! DEFINITION. Every step of R10 as a function of the state, the choice of the next one, and how an instruction word is presented. Step.lean calls these. -/

namespace Sys2Proof.Machine

open Sys2Proof

/-- Step P1 (R10, R78): take the presented command word when `cmd_ready` = 1, decode it, and run it or answer ILLEGAL
(R88). Without a word, or while busy, nothing happens. -/
def stepAccept (s : State) : Host.Outcome State Fault Refusal :=
  match s.env.cmd with
  | none => .next s
  | some w =>
    if s.cmdReady then
      match decodeCommand w with
      | .instr i => exec i { s with env.cmd := none }
      | .reject _ => .next (takeIllegal { s with env.cmd := none })
    else .next s

/-- Step C1 (R10, R78, R129): take the presented request word and answer it; a word that is no SINK_REQ is a bad request
of its own length field (R90). -/
def stepSink (s : State) : Host.Outcome State Fault Refusal :=
  match s.env.req with
  | none => .next s
  | some w =>
    match decodeRequest w with
    | .instr i => exec i { s with env.req := none }
    | .reject _ => .next (badRequest (lenOf (payloadField w)) { s with env.req := none })

/-- The answer to the presented request, if a request is presented. -/
def State.answerNow (s : State) : Option Answer :=
  match s.env.req with
  | none => none
  | some _ =>
    match stepSink s with
    | .next t => t.out.answer
    | .fault _ => none
    | .refused _ => none

/-- A reset cuts off the answer to the presented request after `taken` frames: the request is gone, and no frame taken
is its last (R168). With no request presented there is nothing to cut off. -/
def cutStream (taken : Option Nat) (s : State) : State :=
  match taken with
  | none => s
  | some n =>
    match s.answerNow with
    | none => s
    | some a => State.emit { s with env.req := none } (a.cutAfter n)

/-- A reset cuts off the trigger that is due after it has started the sources and taken some frames of each, at most
FBLEN (R168, R106): those frames are gone. With no trigger due there is nothing to cut off. -/
def cutRender (taken : Option (Nat × Nat × Nat)) (s : State) : State :=
  match taken with
  | none => s
  | some (a, b, c) =>
    if triggerDue s then
      { s with env.psg := s.env.psg.drop (min a s.params.fblen), env.pcm := s.env.pcm.drop (min b s.params.fblen),
               env.fm := s.env.fm.drop (min c s.params.fblen), out.srcStart := true }
    else s

/-- Reset (R166, R168): the outputs show what it cut off, and nothing else. -/
def stepReset (cut : Cut) (s : State) : State :=
  (cutRender cut.render (cutStream cut.stream { s with out := Outputs.quiet })).afterReset

/-- One scheduled step (R10, R11, R165, R166). -/
def perform (m : Move) (s : State) : Host.Outcome State Fault Refusal :=
  match m with
  | .hostDrive cmd => driveCommand cmd s
  | .hostTake => .next (takeResponse s)
  | .deviceDrive req => driveRequest req s
  | .platform devOk devRate => .next (drivePlatform devOk devRate s)
  | .sourceDeliver k frames => .next (deliverFrames k frames s)
  | .accept => stepAccept s
  | .trigger => stepTrigger s
  | .finishAdvance => .next (stepFinishAdvance s)
  | .finishHandshake => .next (stepFinishHandshake s)
  | .sink => stepSink s
  | .start => .next (stepStart s)
  | .stop => .next (stepStop s)
  | .syncRd n => .next (syncRd n s)
  | .syncWr n => .next (syncWr n s)
  | .syncRun => .next (syncRun s)
  | .syncAck => .next (syncAck s)
  | .syncDiag => .next (syncDiag s)
  | .reset cut => .next (stepReset cut s)
  | .crossingViolation => .refused .crossingViolated
  | .ramOrderViolation => .refused .ramOrderViolated

/-- The step that is scheduled next: the move of a view that has been behind its source for as many steps as were drawn
for it (R11, Fairness), else the head of the agenda, else a draw (R10). -/
def State.nextMove (s : State) : Move :=
  match s.overdue with
  | some v => catchUp v
  | none =>
    match s.agenda with
    | m :: _ => m
    | [] => Config.freeMove s.draws

/-- The state with that choice made: the agenda without its head if the step is taken from it, the lags of the views as
they are now, one more step taken, and the outputs quiet. -/
def State.scheduled (s : State) : State :=
  { s with
    agenda := if s.overdue = none then s.agenda.tail else s.agenda,
    draws := s.draws + 1, lags := nextLags s, out := Outputs.quiet }

/-- Present a word on the port it belongs to and schedule its acceptance next, with no view overdue. On the command port
the sequencer is idle and no response is pending, as acceptance needs (R78). -/
def State.present (s : State) (w : Word) : State :=
  match portOf w with
  | .consumer => { s with env.req := some w, agenda := .sink :: s.agenda, lags := Lags.reset }
  | .command =>
    { s with env.cmd := some w, p.phase := .idle, p.rsp := none, agenda := .accept :: s.agenda, lags := Lags.reset }

end Sys2Proof.Machine
end

