-- ==== Sys2Proof/Machine/Step.lean ====
section
/-! DEFINITION. One step of the machine, and how the host places an instruction word where the next step takes it. -/

namespace Sys2Proof.Machine

open Sys2Proof

/-- One step (R10): a legal parameter set is required (R5), then the scheduled step is performed. -/
def step (s : State) : Host.Outcome State Fault Refusal :=
  if s.params.legal then perform s.nextMove s.scheduled else .refused .illegalParameters

/-- The state in which the next step takes and runs exactly the table's word `w`. -/
def State.withFetchWord (s : State) (nbits w : Nat) : State := s.present (tableWord nbits w)

end Sys2Proof.Machine
end

