-- ==== Sys2Proof/Machine/Assembler.lean ====
section
/-! DEFINITION. The assembler of R92: one command a line, comments from `;`, pseudo-instructions, and out-of-range operands refused. -/

namespace Sys2Proof.Machine

open Sys2Proof

/-- One assembler line (R92). Numeric operands are unchecked integers: `assembleLine` checks their range. -/
inductive AsmLine where
  | nop
  | openReq (req : Int)
  | openNone
  | close
  | advance (cycles : Int)
  /-- `ADVANCE* n`. -/
  | advanceMany (n : Int)
  | csrRead (idx : Int)
  | sink (len : Int)
  /-- `SINK` with no operand. -/
  | sinkDefault
  deriving DecidableEq, Repr

/-- The CSR names of R43 to R53 with their indices. -/
def csrNames : List (String × Int) :=
  [("CFG_FBLEN", 0x00), ("CFG_MAXCAP", 0x01), ("CFG_RATIO", 0x02), ("STATUS", 0x03), ("CAPACITY", 0x04),
   ("CPU_ACC", 0x05), ("AUD_ACC", 0x06), ("WR_STATE", 0x07), ("COUNT_P", 0x08), ("TRIG_COUNT", 0x09),
   ("DROP_COUNT", 0x0A)]

/-- The largest operand of one ADVANCE, 2^28 − 1 (R84). -/
def maxCycles : Nat := 268435455

/-- The commands that `ADVANCE* n` expands to (R92). -/
def expandAdvance (n : Nat) : List Instr :=
  List.replicate (n / maxCycles) (.advance (BitVec.ofNat 28 maxCycles)) ++
    if n % maxCycles = 0 then [] else [.advance (BitVec.ofNat 28 (n % maxCycles))]

/-- The instructions of a line; none where an operand is out of range, which is an assembly error and never truncated
(R92). -/
def assembleInstrs (p : Params) : AsmLine → Option (List Instr)
  | .nop => some [.nop]
  | .openReq r => if -8388608 ≤ r ∧ r ≤ 8388607 then some [.openEngine false (BitVec.ofInt 24 r)] else none
  | .openNone => some [.openEngine true 0]
  | .close => some [.closeEngine]
  | .advance n => if 0 ≤ n ∧ n ≤ 268435455 then some [.advance (BitVec.ofInt 28 n)] else none
  | .advanceMany n => if 0 ≤ n then some (expandAdvance n.toNat) else none
  | .csrRead i => if 0 ≤ i ∧ i ≤ 255 then some [.csrRead (BitVec.ofInt 8 i)] else none
  | .sink n => if 0 ≤ n ∧ n ≤ 268435455 then some [.sinkReq (BitVec.ofInt 28 n)] else none
  | .sinkDefault => some [.sinkReq (BitVec.ofNat 28 p.fblen)]

/-- The words of a line (R92). -/
def assembleLine (p : Params) (l : AsmLine) : Option (List Word) := (assembleInstrs p l).map (List.map encode)

/-! ### The text form -/

/-- A blank between operands. -/
def isBlank (c : Char) : Bool := c == ' ' || c == '\t'

/-- The words of a line: a comment begins at `;` (R92). `acc` is the word being read. -/
def splitLine : List Char → List Char → List (List Char)
  | acc, [] => if acc = [] then [] else [acc]
  | acc, c :: cs =>
    if c = ';' then (if acc = [] then [] else [acc])
    else if isBlank c then (if acc = [] then splitLine [] cs else acc :: splitLine [] cs)
    else splitLine (acc ++ [c]) cs

/-- The value of a digit. -/
def digitValue (c : Char) : Option Nat :=
  if '0' ≤ c ∧ c ≤ '9' then some (c.toNat - '0'.toNat)
  else if 'a' ≤ c ∧ c ≤ 'f' then some (c.toNat - 'a'.toNat + 10)
  else if 'A' ≤ c ∧ c ≤ 'F' then some (c.toNat - 'A'.toNat + 10)
  else none

/-- Digits of a base after the value `acc`. -/
def digitsFrom (base : Nat) : Nat → List Char → Option Nat
  | acc, [] => some acc
  | acc, c :: cs =>
    match digitValue c with
    | some d => if d < base then digitsFrom base (acc * base + d) cs else none
    | none => none

/-- A decimal or hex number (R92). -/
def parseNat : List Char → Option Nat
  | [] => none
  | '0' :: 'x' :: c :: cs => digitsFrom 16 0 (c :: cs)
  | cs => digitsFrom 10 0 cs

/-- A signed decimal or hex number (R92). -/
def parseInt : List Char → Option Int
  | '-' :: cs => (parseNat cs).map (fun n => -(n : Int))
  | cs => (parseNat cs).map (fun n => (n : Int))

/-- A CSR index, as a number or a name (R92). -/
def parseCsr (t : List Char) : Option Int :=
  match csrNames.find? (fun r => r.1.toList == t) with
  | some r => some r.2
  | none => parseInt t

/-- The command of a line's words: `some []` for a line without words, none for an assembly error (R92). -/
def parseWords : List (List Char) → Option (List AsmLine)
  | [] => some []
  | [m] =>
    if m = "NOP".toList then some [.nop]
    else if m = "CLOSE".toList then some [.close]
    else if m = "STATUS".toList then some [.csrRead 0x03]
    else if m = "SINK".toList then some [.sinkDefault]
    else none
  | [m, a] =>
    if m = "OPEN".toList then
      (if a = "none".toList then some [.openNone] else (parseInt a).map (fun n => [.openReq n]))
    else if m = "ADVANCE".toList then (parseInt a).map (fun n => [.advance n])
    else if m = "ADVANCE*".toList then (parseInt a).map (fun n => [.advanceMany n])
    else if m = "CSR_READ".toList then (parseCsr a).map (fun n => [.csrRead n])
    else if m = "SINK".toList then (parseInt a).map (fun n => [.sink n])
    else none
  | _ => none

/-- The words of a parsed line's commands. -/
def assembleLines (p : Params) : List AsmLine → Option (List Word)
  | [] => some []
  | l :: ls =>
    match assembleLine p l, assembleLines p ls with
    | some ws, some vs => some (ws ++ vs)
    | _, _ => none

/-- Assemble one line of text (R92). -/
def assembleText (p : Params) (line : String) : Option (List Word) :=
  match parseWords (splitLine [] line.toList) with
  | some ls => assembleLines p ls
  | none => none

end Sys2Proof.Machine
end

