-- ==== Sys2Proof/Safety.lean ====
section
/-! DEFINITION. What claims are stated in: the invariant of the machine (R18 to R46, R65), its FIFO contents (R123), the cycles advanced since the last OPEN (R100), the fairness of a run (R11), the end of a run (R164), and which domain a step belongs to (R10). -/

namespace Sys2Proof.Machine

open Sys2Proof

/-- The machine right after reset with a parameter set of the implementation's own choosing (R4, R56). -/
def State.fresh (q : Params) : State := { State.reset with params := q }

/-- The engine is OPEN and the consumer is running: the states in which the two pointers are both live. -/
def State.live (s : State) : Prop := s.p.eng = .opened ∧ s.c.ackC = true

/-- The invariant of the machine. Every state the block reaches has it. -/
structure State.Inv (s : State) : Prop where
  /-- R5. -/
  legal : s.params.legal = true
  /-- R78: no response is pending while a command is in progress. -/
  rspIdle : s.p.rsp.isSome = true → s.p.phase = .idle
  /-- R98, R145: only an open engine advances or closes. -/
  busyOpen : s.p.phase = .advancing ∨ s.p.phase = .closing → s.p.eng = .opened
  /-- R139: only an engine in UNINIT or CLOSED opens. -/
  openingShut : s.p.phase = .opening → s.p.eng = .uninit ∨ s.p.eng = .closed
  /-- R18, R154: FAULT holds exactly with a cause bit. -/
  causeFault : s.p.eng = .fault ↔ (s.p.fAlloc = true ∨ s.p.fDev = true)
  /-- R18: at most one cause bit is ever 1. -/
  oneCause : ¬ (s.p.fAlloc = true ∧ s.p.fDev = true)
  /-- R16, R140: a disabled engine stays shut. -/
  disabledShut : s.p.disabled = true → s.p.phase = .idle ∧ (s.p.eng = .uninit ∨ s.p.eng = .closed)
  /-- R19. -/
  capRange : s.p.capacity = 0 ∨ (3 ≤ s.p.capacity.toNat ∧ s.p.capacity.toNat ≤ s.params.maxCapImpl)
  /-- R19, R143: an engine that opens or is open has a capacity. -/
  capOpen : s.p.eng = .opened ∨ s.p.phase = .opening → s.p.capacity ≠ 0
  /-- R25: `run_p` is 1 from an OPEN to the next CLOSE. -/
  runWhen : s.p.runP = true ↔ (s.p.phase = .opening ∨ (s.p.eng = .opened ∧ s.p.phase ≠ .closing))
  /-- R146, R149: a shut engine has a stopped consumer, and both sides have seen it. -/
  shutStill : s.p.eng ≠ .opened ∧ s.p.phase ≠ .opening →
    s.c.runSeen = false ∧ s.c.ackC = false ∧ s.p.ackSeen = false
  /-- R143, R135: the rising half of the handshake. -/
  openingOrder : s.p.phase = .opening →
    (s.c.ackC = true → s.c.runSeen = true) ∧ (s.p.ackSeen = true → s.c.ackC = true)
  /-- R143: an open engine that is not closing has completed the rising half. -/
  openRuns : s.p.eng = .opened ∧ s.p.phase ≠ .closing →
    s.c.runSeen = true ∧ s.c.ackC = true ∧ s.p.ackSeen = true
  /-- R146, R136: the falling half of the handshake. -/
  closingOrder : s.p.phase = .closing →
    (s.c.ackC = false → s.c.runSeen = false) ∧ (s.p.ackSeen = false → s.c.ackC = false)
  /-- R122: `diag_req` only rises, so its copy is never ahead of it. -/
  diagLags : s.p.diagSeen = true → s.c.diagReq = true
  /-- R23. -/
  wrGrayed : s.p.wrGray = gray s.p.wrCnt
  /-- R32. -/
  rdGrayed : s.c.rdGray = gray s.c.rdCnt
  /-- R22. -/
  writeIndexIn : if s.p.capacity = 0 then s.p.writeIndex = 0 else s.p.writeIndex.toNat < s.p.capacity.toNat
  /-- R31. -/
  readIndexIn : if s.p.capacity = 0 then s.c.readIndex = 0 else s.c.readIndex.toNat < s.p.capacity.toNat
  /-- R143, R146: while the engine is not open both pointers and indices are 0, and so is the producer's view. -/
  shutPointers : s.p.eng ≠ .opened →
    s.p.wrCnt = 0 ∧ s.c.rdCnt = 0 ∧ s.p.writeIndex = 0 ∧ s.c.readIndex = 0 ∧ s.p.rdSeen = 0 ∧
    s.x.rdJump = false ∧ (s.x.wrJump = true ↔ s.c.wrSeen ≠ 0) ∧ (s.c.ackC = true → s.c.wrSeen = 0)
  /-- R40, R41, R39: while both pointers are live each view is an earlier value of its pointer, the producer's view is
  at most capacity, and the indices agree with the pointers. -/
  livePointers : s.live →
    s.x.rdJump = false ∧ s.x.wrJump = false ∧ s.countP ≤ s.p.capacity.toNat ∧
    ptrDist s.c.rdCnt s.p.rdSeen ≤ s.countP ∧ s.countC ≤ ptrDist s.p.wrCnt s.c.rdCnt ∧
    s.p.writeIndex.toNat = (s.c.readIndex.toNat + ptrDist s.p.wrCnt s.c.rdCnt) % s.p.capacity.toNat
  /-- R38, R136: inside a CLOSE window the read side is 0 and the producer's view has at most the jump to 0 to make. -/
  windowPointers : s.closeWindow = true →
    s.c.rdCnt = 0 ∧ s.c.readIndex = 0 ∧ (s.x.rdJump = true ↔ s.p.rdSeen ≠ 0) ∧ s.x.wrJump = false
  /-- R20. -/
  cpuBound : s.p.cpuAcc.toNat < s.params.div1
  /-- R21. -/
  audBound : s.p.phase ≠ .advancing → s.p.audAcc.toNat < s.params.thresh
  /-- The RAM's canonical form. -/
  ramForm : s.ram.wf
  /-- R57. -/
  ramRange : ∀ cell ∈ s.ram, cell.1 < s.params.ramWords

/-! ### The ring's contents -/

/-- The frame buffer a slot holds (R58). -/
def State.slotFrames (s : State) (slot : Nat) : List Word :=
  (List.range s.params.fblen).map (fun i => s.ramRead (frameAddr s.params slot i))

/-- The frame buffers published and not yet consumed or discarded, oldest first (R39, R123). -/
def State.pendingBuffers (s : State) : List (List Word) :=
  (List.range s.count).map (fun j => s.slotFrames ((s.c.readIndex.toNat + j) % s.p.capacity.toNat))

/-- A trigger step would publish: one is due, its sources have delivered, and its reservation succeeds (R104). -/
def State.publishes (s : State) : Bool := triggerDue s && sourcesReady s && tryReserve s

/-! ### Cycles advanced since the last successful OPEN -/

/-- An OPEN with these operands succeeds (R148). -/
def openSucceeds (noDev : Bool) (req : BitVec 24) (s : State) : Bool :=
  decide (s.p.eng = .uninit ∨ s.p.eng = .closed) && !s.p.disabled && !noDev &&
  decide (clampCap (reqOf req) ≤ s.params.maxCapImpl) && s.env.devOk

/-- The sum of the cycle counts of the ADVANCEs executed since the last successful OPEN (R100), after one more
instruction is accepted. -/
def cyclesAfterInstr (i : Instr) (s : State) (sum : Nat) : Nat :=
  match i with
  | .advance cycles => if s.p.eng = .opened then sum + cyclesOf cycles else sum
  | .openEngine noDev req => if openSucceeds noDev req s then 0 else sum
  | .nop => sum
  | .closeEngine => sum
  | .csrRead _ => sum
  | .sinkReq _ => sum

/-- The command the next accept step would run, if any. -/
def State.acceptable (s : State) : Option Instr :=
  match s.env.cmd with
  | none => none
  | some w =>
    if s.cmdReady then
      match decodeCommand w with
      | .instr i => some i
      | .reject _ => none
    else none

/-- That sum after one more step: reset and a successful OPEN begin it again. -/
def cyclesAfter (m : Move) (s : State) (sum : Nat) : Nat :=
  match m with
  | .reset _ => 0
  | .accept =>
    match s.acceptable with
    | some i => cyclesAfterInstr i s sum
    | none => sum
  | _ => sum

/-- The accumulators and the trigger count account for every cycle advanced: nothing is lost and nothing is counted
twice (R100). -/
def State.accounts (s : State) (sum : Nat) : Prop :=
  s.p.cpuAcc.toNat = sum % s.params.div1 ∧
  ∃ n : Nat, sum / s.params.div1 * s.params.mul1 = n * s.params.thresh + s.p.audAcc.toNat ∧
    s.p.trigCount = BitVec.ofNat 32 n

/-- Perform a whole schedule, keeping the sum of cycles beside the state. -/
def play : List Move → State → Nat → Option (State × Nat)
  | [], s, sum => some (s, sum)
  | m :: ms, s, sum =>
    match perform m s with
    | .next t => play ms t (cyclesAfter m s sum)
    | .fault _ => none
    | .refused _ => none

/-! ### Fairness -/

/-- For how many steps from a state a view can be behind a source that stays unchanged (R11): the steps still drawn for
it, one step to look at it, and one for each view whose move may be due first. -/
def settleBound (v : View) (s : State) : Nat :=
  match nextLag v s with
  | some l => l.left + 6
  | none => 0

/-- A run of the machine of `n` steps: `r k` is its state after k steps. -/
def isRun (r : Nat → State) (n : Nat) : Prop := ∀ k, k < n → step (r k) = .next (r (k + 1))

/-- A view keeps the fairness of R11 along a run: within `n` steps it equals its source, or the source changes. -/
def settlesWithin (v : View) (r : Nat → State) (n : Nat) : Prop :=
  ∃ k, k ≤ n ∧ (viewSeen v (r k) = viewSource v (r k) ∨ viewSource v (r k) ≠ viewSource v (r 0))

/-! ### The end of a run -/

/-- The producer's run is complete: no command waits, none is in progress, and none lacks its response (R164). -/
def State.producerComplete (s : State) : Prop := s.env.cmd = none ∧ s.p.phase = .idle

/-- Every `Seen` view equals its source (R164, R11). -/
def State.settled (s : State) : Prop :=
  s.p.rdSeen = s.c.rdCnt ∧ s.c.wrSeen = s.p.wrCnt ∧ s.c.runSeen = s.p.runP ∧ s.p.ackSeen = s.c.ackC ∧
  s.p.diagSeen = s.c.diagReq

/-- A state is final when both agents are complete and every view is settled (R164); the consumer is complete once no
request waits, since a request is one step (R37). -/
def State.final (s : State) : Prop := s.producerComplete ∧ s.env.req = none ∧ s.settled

/-! ### Whose step it is -/

/-- The producer agent's own steps P1 to P4 (R10). -/
def moveOfProducer : Move → Bool
  | .accept => true
  | .trigger => true
  | .finishAdvance => true
  | .finishHandshake => true
  | _ => false

/-- The consumer agent's own steps C1 to C3 (R10). -/
def moveOfConsumer : Move → Bool
  | .sink => true
  | .start => true
  | .stop => true
  | _ => false

/-- A reset, whatever it cuts off (R166, R168). -/
def moveIsReset : Move → Bool
  | .reset _ => true
  | _ => false

/-- The acts of the environment other than reset (R9). -/
def moveOfEnvironment : Move → Bool
  | .hostDrive _ => true
  | .hostTake => true
  | .deviceDrive _ => true
  | .platform _ _ => true
  | .sourceDeliver _ _ => true
  | _ => false

end Sys2Proof.Machine
end

