-- ==== Sys2Proof/Certificates/Slice0/Obligations.lean ====
section
/-! DEFINITION. The statements about the machine, for the provers. -/

open Sys2Proof Sys2Proof.Machine

/-! ### Encoding (30_encoding.md) -/

/-- R81 to R86 and R93: no bit of a well-formed instruction is dropped on its port. -/
def Obligations.DecodeInvertsEncode : Prop :=
  ∀ i : Instr, i.wf = true → decodeOn i.port (encode i) = .instr i

/-- R89: a word has at most one meaning on each port, and it is the one whose encoding the word is. -/
def Obligations.EncodeInvertsDecode : Prop :=
  ∀ (port : Port) (w : Word) (i : Instr), decodeOn port w = .instr i →
    i.port = port ∧ i.wf = true ∧ encode i = w

/-- R88, with the fields written as arithmetic on the word: which command words are ILLEGAL, and that such a word sets
`ill`, answers (0, ILLEGAL) and changes nothing else in every `eng_state`; every other word runs as an instruction. -/
def Obligations.IllegalWordsSetIllAndNothingElse : Prop :=
  ∀ (s : State) (w : Word), s.env.cmd = some w → s.cmdReady = true →
    let n := w.toNat
    let illegal :=
      5 ≤ n / 2 ^ 28 ∨
      (n / 2 ^ 28 = 0 ∧ n % 2 ^ 28 ≠ 0) ∨ (n / 2 ^ 28 = 1 ∧ n / 2 ^ 24 % 8 ≠ 0) ∨
      (n / 2 ^ 28 = 2 ∧ n % 2 ^ 28 ≠ 0) ∨ (n / 2 ^ 28 = 4 ∧ n / 2 ^ 8 % 2 ^ 20 ≠ 0) ∨
      (n / 2 ^ 28 = 4 ∧ 0x0A < n % 2 ^ 8)
    (illegal → perform .accept s =
      .next { s with env.cmd := none, p.ill := true, p.rsp := some { data := 0, code := .illegal } }) ∧
    (¬ illegal → ∃ i, decodeCommand w = .instr i ∧ perform .accept s = exec i { s with env.cmd := none })

/-- The rows of spec/opcode_table.json against the decoder: on the port a word belongs to, the decoder gives a row's
instruction exactly for the words of the row's mask and match, less CSR_READ's reserved indices (R54). -/
def Obligations.OpcodeTableIsTheDecoder : Prop :=
  ∀ (w : Word) (r : OpcodeRow), r ∈ opcodeRows →
    ((∃ i, decodeOn (portOf w) w = .instr i ∧ i.mnemonic = r.mnemonic) ↔
      (r.matchesWord w = true ∧ (r.mnemonic = "CSR_READ" → w.toNat % 256 ≤ 0x0A)))

/-- Words of 95_test_vectors.md section 2.1, and what they decode to. -/
def Obligations.TabledWordsDecode : Prop :=
  decodeCommand 0x00000000#32 = .instr .nop ∧
  decodeCommand 0x10FFFFFF#32 = .instr (.openEngine false 0xFFFFFF#24) ∧
  decodeCommand 0x18001234#32 = .instr (.openEngine true 0x001234#24) ∧
  decodeCommand 0x20000000#32 = .instr .closeEngine ∧
  decodeCommand 0x3FFFFFFF#32 = .instr (.advance 0xFFFFFFF#28) ∧
  decodeCommand 0x4000000A#32 = .instr (.csrRead 0x0A#8) ∧
  decodeRequest 0x80000100#32 = .instr (.sinkReq 0x0000100#28) ∧
  decodeCommand 0x14000003#32 = .reject .reservedBits ∧
  decodeCommand 0x4000000B#32 = .reject .reservedCsr ∧
  decodeCommand 0x80000100#32 = .reject .reservedOpcode

/-- R92: `ADVANCE* n` is `n div (2^28−1)` full ADVANCEs and one for the remainder if it is not 0, and their cycle counts
sum to n. -/
def Obligations.AdvanceStarCoversItsCycles : Prop :=
  ∀ n : Nat, ∃ cs : List (BitVec 28),
    expandAdvance n = cs.map Instr.advance ∧ (cs.map BitVec.toNat).sum = n ∧
    cs.length = n / (2 ^ 28 - 1) + (if n % (2 ^ 28 - 1) = 0 then 0 else 1) ∧
    cs.take (n / (2 ^ 28 - 1)) = List.replicate (n / (2 ^ 28 - 1)) (BitVec.allOnes 28)

/-- R92, R93: `OPEN <req>` assembles to one word whose REQ reads back as the integer written, and an integer that does
not fit is an assembly error. -/
def Obligations.OpenOperandIsSignedOrRefused : Prop :=
  ∀ (q : Params) (r : Int),
    (-(2 ^ 23) ≤ r ∧ r ≤ 2 ^ 23 - 1 → ∃ w, assembleLine q (.openReq r) = some [w] ∧
      decodeCommand w = .instr (.openEngine false (reqField w)) ∧ reqOf (reqField w) = r) ∧
    (¬ (-(2 ^ 23) ≤ r ∧ r ≤ 2 ^ 23 - 1) → assembleLine q (.openReq r) = none)

/-- R59, R60: the lanes of a frame word, left in bits 15 to 0 and right in bits 31 to 16, and its bytes in little-endian
order, left sample first. -/
def Obligations.FrameLanesAndBytes : Prop :=
  ∀ (l r : Sample) (f : Word),
    leftLane (frameWord l r) = l ∧ rightLane (frameWord l r) = r ∧
    f.toNat = 2 ^ 16 * (rightLane f).toNat + (leftLane f).toNat ∧
    ∃ b0 b1 b2 b3 : Byte, frameBytes f = [b0, b1, b2, b3] ∧
      (leftLane f).toNat = b0.toNat + 256 * b1.toNat ∧ (rightLane f).toNat = b2.toNat + 256 * b3.toNat

/-! ### Clock converter (40_clock_converter.md) -/

/-- R95: stage 1 on mathematical integers; under R5 neither accumulator wraps, and nothing else changes. -/
def Obligations.StageOneIsExact : Prop :=
  ∀ (s : State) (cycles : Nat), s.params.legal = true → s.p.cpuAcc.toNat < s.params.div1 →
    s.p.audAcc.toNat < s.params.thresh → cycles < 2 ^ 28 →
    let t := s.p.cpuAcc.toNat + cycles
    let s' := stage1 cycles s
    t < 2 ^ 28 + s.params.div1 - 1 ∧ t < 2 ^ 32 ∧
    s'.p.cpuAcc.toNat = t % s.params.div1 ∧
    s'.p.audAcc.toNat = s.p.audAcc.toNat + t / s.params.div1 * s.params.mul1 ∧
    s' = { s with p.cpuAcc := s'.p.cpuAcc, p.audAcc := s'.p.audAcc }

/-- R94: ADVANCE in OPEN performs stage 1, clears `adv_trigs` and begins the trigger loop. -/
def Obligations.AdvanceInOpenBeginsTheLoop : Prop :=
  ∀ (cycles : BitVec 28) (s : State), s.p.eng = .opened →
    exec (.advance cycles) s =
      .next { stage1 cycles.toNat s with p.advTrigs := 0, p.phase := .advancing }

/-- R98. -/
def Obligations.AdvanceOutsideOpenIsANoop : Prop :=
  ∀ (cycles : BitVec 28) (s : State), s.p.eng = .uninit ∨ s.p.eng = .closed →
    exec (.advance cycles) s = .next { s with p.rsp := some { data := 0, code := .ok } }

/-- R99: the response comes only once no further trigger is due, and carries `adv_trigs`. That the completion step
changes nothing while a trigger is due is the model's form of "no step" (log entry 2, DESIGN CHOICE). -/
def Obligations.AdvanceAnswersItsTriggerCount : Prop :=
  ∀ s : State, s.p.phase = .advancing →
    (s.p.audAcc.toNat < s.params.thresh → perform .finishAdvance s =
      .next { s with p.phase := .idle, p.rsp := some { data := s.p.advTrigs, code := .ok } }) ∧
    (s.params.thresh ≤ s.p.audAcc.toNat → perform .finishAdvance s = .next s)

/-- R94, R96, R97, R99: a whole ADVANCE, with the sources' frames at hand and no other step between: the number of
triggers is the accumulated audio units div THRESH, and the response carries it. -/
def Obligations.WholeAdvanceRunsItsTriggers : Prop :=
  ∀ (cycles : BitVec 28) (s : State), s.Inv → s.p.eng = .opened → s.cmdReady = true →
    let units := s.p.audAcc.toNat + (s.p.cpuAcc.toNat + cycles.toNat) / s.params.div1 * s.params.mul1
    let n := units / s.params.thresh
    n * s.params.fblen ≤ s.env.psg.length → n * s.params.fblen ≤ s.env.pcm.length →
    n * s.params.fblen ≤ s.env.fm.length →
    ∃ t u, exec (.advance cycles) s = .next t ∧
      play (List.replicate n .trigger ++ [.finishAdvance]) t 0 = some (u, 0) ∧
      u.p.rsp = some { data := BitVec.ofNat 32 n, code := .ok } ∧ u.p.phase = .idle ∧
      u.p.audAcc.toNat = units % s.params.thresh ∧
      u.p.cpuAcc.toNat = (s.p.cpuAcc.toNat + cycles.toNat) % s.params.div1 ∧
      u.p.trigCount = s.p.trigCount + BitVec.ofNat 32 n

/-- R100, the spec's own inference: every step of the machine keeps the books of the converter: cycles advanced since the last successful OPEN,
both remainders and the trigger count. -/
def Obligations.EveryStepAccountsForCycles : Prop :=
  ∀ (m : Move) (s t : State) (sum : Nat), s.Inv → s.accounts sum → perform m s = .next t →
    t.accounts (cyclesAfter m s sum)

/-- R100 and R101, the spec's own inferences, over whole runs from reset: whatever the schedule, the commands and the sources do, the accumulators and the trigger
count depend only on the sum of the cycles advanced since the last successful OPEN. -/
def Obligations.NoDriftOverAnyRun : Prop :=
  ∀ (q : Params) (ms : List Move) (t : State) (sum : Nat), q.legal = true →
    play ms (State.fresh q) 0 = some (t, sum) → t.p.phase ≠ .advancing →
    t.p.cpuAcc.toNat = sum % q.div1 ∧
    t.p.audAcc.toNat = (sum / q.div1 * q.mul1) % q.thresh ∧
    t.p.trigCount = BitVec.ofNat 32 ((sum / q.div1 * q.mul1) / q.thresh)

/-- R102, the spec's own inference from R100: play any schedule from a state with the invariant whose books account for
`S` cycles, to a command boundary with the sum at `S'`. The number of triggers the machine has taken since the last
successful OPEN, counted by `trig_count`, is at least k exactly if `S'` has reached `ceil(k × THRESH / MUL1) × DIV1`. With
the empty schedule this is the count at the boundary itself; between two boundaries it says in which ADVANCE the k-th
trigger falls. -/
def Obligations.TriggerIndexIsItsCycleCount : Prop :=
  ∀ (s t : State) (ms : List Move) (S S' : Nat), s.Inv → s.accounts S → play ms s S = some (t, S') →
    t.p.phase ≠ .advancing →
    ∃ n, t.p.trigCount = BitVec.ofNat 32 n ∧
      S' / t.params.div1 * t.params.mul1 = n * t.params.thresh + t.p.audAcc.toNat ∧
      n = (S' / t.params.div1 * t.params.mul1) / (t.params.fblen * t.params.sampleDiv) ∧
      ∀ k, k ≤ n ↔
        (k * (t.params.fblen * t.params.sampleDiv) + t.params.mul1 - 1) / t.params.mul1 * t.params.div1 ≤ S'

/-! ### Mixer and trigger (41_mixer.md) -/

/-- R108: each channel of a mixed frame is the exact integer sum of the three samples of that channel, divided by 3
toward zero and saturated to 16 bits. -/
def Obligations.MixFrameIsTheExactQuotient : Prop :=
  ∀ fa fb fc : Word,
    (leftLane (mixFrame fa fb fc)).toInt =
      min (max (((leftLane fa).toInt + (leftLane fb).toInt + (leftLane fc).toInt).tdiv 3) (-32768)) 32767 ∧
    (rightLane (mixFrame fa fb fc)).toInt =
      min (max (((rightLane fa).toInt + (rightLane fb).toInt + (rightLane fc).toInt).tdiv 3) (-32768)) 32767

/-- R110, the spec's own inference from R109: the saturation stage never changes a value. -/
def Obligations.SaturationNeverActs : Prop :=
  ∀ a b c : Sample, sat16 ((a.toInt + b.toInt + c.toInt).tdiv 3) = (a.toInt + b.toInt + c.toInt).tdiv 3

/-- R114, the spec's own inference from R108: the sources may be exchanged, and a channel depends only on that channel
of the three frames. -/
def Obligations.MixIsSymmetricAndPerChannel : Prop :=
  ∀ a b c d e f : Word,
    mixFrame a b c = mixFrame b a c ∧ mixFrame a b c = mixFrame a c b ∧
    (leftLane a = leftLane d → leftLane b = leftLane e → leftLane c = leftLane f →
      leftLane (mixFrame a b c) = leftLane (mixFrame d e f)) ∧
    (rightLane a = rightLane d → rightLane b = rightLane e → rightLane c = rightLane f →
      rightLane (mixFrame a b c) = rightLane (mixFrame d e f))

/-- R104, R105, R111, R113, R117: a trigger whose reservation succeeds stores the mixed frame buffer in slot
`writeIndex`, frame i at `writeIndex × FBLEN + i`, changes no other frame word, publishes, and counts. The publish raises
`count` by 1 and changes exactly one bit of `wr_gray`. That all three sources have a whole frame buffer at hand, and lose
it in this one step, is the model's form of R106 (log entry 12, DESIGN CHOICE). -/
def Obligations.ReservedTriggerPublishes : Prop :=
  ∀ s : State, s.Inv → s.publishes = true →
    ∃ t, perform .trigger s = .next t ∧
      (mixedBuffer s).length = s.params.fblen ∧
      (∀ (i : Nat) (h : i < (mixedBuffer s).length),
        t.ramRead (s.p.writeIndex.toNat * s.params.fblen + i) = (mixedBuffer s)[i]) ∧
      (∀ a, (a < s.p.writeIndex.toNat * s.params.fblen ∨
          s.p.writeIndex.toNat * s.params.fblen + s.params.fblen ≤ a) → t.ramRead a = s.ramRead a) ∧
      t.count = s.count + 1 ∧ (∃ j, j < 11 ∧ s.p.wrGray ^^^ t.p.wrGray = 1#11 <<< j) ∧
      t.p.audAcc.toNat + s.params.thresh = s.p.audAcc.toNat ∧
      t.p = { s.p with
        audAcc := t.p.audAcc, advTrigs := s.p.advTrigs + 1, trigCount := s.p.trigCount + 1,
        writeIndex := BitVec.ofNat 11 ((s.p.writeIndex.toNat + 1) % s.p.capacity.toNat),
        wrCnt := s.p.wrCnt + 1, wrGray := (s.p.wrCnt + 1#11) ^^^ ((s.p.wrCnt + 1#11) >>> 1) } ∧
      t.c = s.c ∧ t.x = s.x ∧ t.params = s.params ∧ t.out = { s.out with srcStart := true } ∧
      t.env = { s.env with psg := s.env.psg.drop s.params.fblen, pcm := s.env.pcm.drop s.params.fblen,
                           fm := s.env.fm.drop s.params.fblen }

/-- R112, with R96, R106 and R113: overrun. The sources are rendered all the same, the frames are discarded and the drop
is counted. `sourcesReady`, and that each source list loses FBLEN frames in this one step, are the model's form of R106
(log entry 12, DESIGN CHOICE). -/
def Obligations.OverrunDropsSilently : Prop :=
  ∀ s : State, triggerDue s = true → sourcesReady s = true → tryReserve s = false →
    ∃ t, perform .trigger s = .next t ∧
      (∀ a, t.ramRead a = s.ramRead a) ∧
      t.p.audAcc.toNat + s.params.thresh = s.p.audAcc.toNat ∧
      t.p = { s.p with
        audAcc := t.p.audAcc, advTrigs := s.p.advTrigs + 1, trigCount := s.p.trigCount + 1,
        dropCount := s.p.dropCount + 1 } ∧
      t.c = s.c ∧ t.x = s.x ∧ t.params = s.params ∧ t.out = { s.out with srcStart := true } ∧
      t.env = { s.env with psg := s.env.psg.drop s.params.fblen, pcm := s.env.pcm.drop s.params.fblen,
                           fm := s.env.fm.drop s.params.fblen }

/-- R178 (log entry 12): a source that has not delivered FBLEN frames holds the trigger. -/
def Obligations.StarvedTriggerHolds : Prop :=
  ∀ s : State, (s.env.psg.length < s.params.fblen ∨ s.env.pcm.length < s.params.fblen ∨
      s.env.fm.length < s.params.fblen) → perform .trigger s = .next s

/-! ### Ring buffer and crossing (42_ring_buffer.md) -/

/-- R120: the gray code, its inverse and its properties. -/
def Obligations.GrayCodeInvertsAndStepsOneBit : Prop :=
  (∀ b : Ptr, gray b = b ^^^ (b >>> 1) ∧ bin (gray b) = b ∧
    ∃ i, i < 11 ∧ gray b ^^^ gray (b + 1) = 1#11 <<< i) ∧
  (∀ g : Ptr, (bin g).getLsbD 10 = g.getLsbD 10 ∧
    ∀ i, i < 10 → (bin g).getLsbD i = xor ((bin g).getLsbD (i + 1)) (g.getLsbD i)) ∧
  gray 0 = 0x000#11 ∧ gray 1 = 0x001#11 ∧ gray 2 = 0x003#11 ∧ gray 3 = 0x002#11 ∧ gray 2047 = 0x400#11

/-- R115, R7: the capacity clamp on every integer. -/
def Obligations.ClampIsTheIntervalRule : Prop :=
  (∀ r : Int, 3 ≤ clampCap r ∧ clampCap r ≤ 1024 ∧ (3 ≤ r → r ≤ 1024 → (clampCap r : Int) = r) ∧
    (r ≤ 3 → clampCap r = 3) ∧ (1024 ≤ r → clampCap r = 1024)) ∧
  clampCap 5000 = 1024 ∧ clampCap (-1) = 3

/-- R116, R40: the reservation is the producer's view, it never finds room in a full ring, and once the view has caught
up it is exactly `count < capacity`. -/
def Obligations.ReservationIsConservative : Prop :=
  ∀ s : State, s.Inv → s.p.eng = .opened → s.closeWindow = false →
    (tryReserve s = true ↔
      (s.p.wrCnt.toNat + 2048 - s.p.rdSeen.toNat) % 2048 < s.p.capacity.toNat) ∧
    (s.count = s.p.capacity.toNat → tryReserve s = false) ∧
    (s.p.rdSeen = s.c.rdCnt → (tryReserve s = true ↔ s.count < s.p.capacity.toNat))

/-- R11, R121, R122: a synchronizer step moves a pointer's view forward and never past the pointer, can move it to every
value on the way, and moves it directly to 0 after a pointer reset; it moves a level's view to the level; and it changes
nothing else. That such a move to 0 is due is remembered by `x.wrJump` and `x.rdJump`, bits of the model's own (log entry
5, DEDUCED). -/
def Obligations.SynchronizersMoveOnlyTheirView : Prop :=
  ∀ (s : State) (n : Nat), s.p.wrGray = gray s.p.wrCnt → s.c.rdGray = gray s.c.rdCnt →
    (s.x.wrJump = false → ∃ k, k = min n (ptrDist s.p.wrCnt s.c.wrSeen) ∧
      perform (.syncWr n) s = .next { s with c.wrSeen := s.c.wrSeen + BitVec.ofNat 11 k }) ∧
    (s.x.wrJump = true → perform (.syncWr 0) s = .next s ∧
      perform (.syncWr (n + 1)) s = .next { s with c.wrSeen := 0, x.wrJump := false }) ∧
    (s.x.rdJump = false → ∃ k, k = min n (ptrDist s.c.rdCnt s.p.rdSeen) ∧
      perform (.syncRd n) s = .next { s with p.rdSeen := s.p.rdSeen + BitVec.ofNat 11 k }) ∧
    (s.x.rdJump = true → perform (.syncRd 0) s = .next s ∧
      perform (.syncRd (n + 1)) s = .next { s with p.rdSeen := 0, x.rdJump := false }) ∧
    perform .syncRun s = .next { s with c.runSeen := s.p.runP } ∧
    perform .syncAck s = .next { s with p.ackSeen := s.c.ackC } ∧
    perform .syncDiag s = .next { s with p.diagSeen := s.c.diagReq }

/-- R11 (Fairness), R164. From every state that has the invariant, one step of each synchronizer can bring every view to
its source. And every run of the machine is fair, whatever is scheduled or drawn: within a number of steps that the free
value `Config.freePatience` draws (log entry 3, DESIGN CHOICE), each view equals its source, or the source changes. -/
def Obligations.ViewsCatchUp : Prop :=
  (∀ s : State, s.Inv →
    ∃ u, play [.syncRd 2047, .syncWr 2047, .syncRun, .syncAck, .syncDiag] s 0 = some (u, 0) ∧
      u.settled ∧
      u = { s with p.rdSeen := s.c.rdCnt, p.ackSeen := s.c.ackC, p.diagSeen := s.c.diagReq,
                   c.wrSeen := s.p.wrCnt, c.runSeen := s.p.runP, x := u.x }) ∧
  ∀ (r : Nat → State) (v : View), (r 0).Inv → isRun r (settleBound v (r 0)) → settlesWithin v r (settleBound v (r 0))

/-- R39, R40, R41, R22, R31, the spec's own inferences: the fill level and the two views of it, in every state that has
the invariant. -/
def Obligations.FillLevelsAreBounded : Prop :=
  ∀ s : State, s.Inv →
    s.count ≤ s.p.capacity.toNat ∧
    (s.closeWindow = false → s.count ≤ s.countP ∧ s.countP ≤ s.p.capacity.toNat) ∧
    (s.c.ackC = true → s.countC ≤ s.count) ∧
    (s.p.capacity ≠ 0 → s.p.writeIndex.toNat < s.p.capacity.toNat ∧ s.c.readIndex.toNat < s.p.capacity.toNat) ∧
    (s.p.capacity ≠ 0 → s.closeWindow = false →
      (s.c.readIndex.toNat + s.count) % s.p.capacity.toNat = s.p.writeIndex.toNat)

/-- R123, R70, the spec's own inferences, as a refinement: the machine's ring is a queue of frame buffers. A publishing
trigger appends the mixed frame buffer; a sink request that answers with data answers with the oldest one and removes
it; a consumer stop and a reset empty the queue; every other step leaves it alone. -/
def Obligations.RingRefinesAQueue : Prop :=
  ∀ (m : Move) (s t : State), s.Inv → perform m s = .next t →
    (m = .trigger → s.publishes = true → t.pendingBuffers = s.pendingBuffers ++ [mixedBuffer s]) ∧
    (m = .sink → s.out.answer = none →
      (∃ b, t.out.answer = some (.buffer b) ∧ s.pendingBuffers = b :: t.pendingBuffers) ∨
      ((∀ b, t.out.answer ≠ some (.buffer b)) ∧ t.pendingBuffers = s.pendingBuffers)) ∧
    (m = .stop → s.c.ackC = true → s.c.runSeen = false → t.pendingBuffers = []) ∧
    (moveIsReset m = true → t.pendingBuffers = []) ∧
    (m ≠ .sink → moveIsReset m = false → (m = .trigger → s.publishes = false) →
      (m = .stop → s.c.ackC = false ∨ s.c.runSeen = true) → t.pendingBuffers = s.pendingBuffers)

/-! ### Consumer port (43_audio_sink.md) -/

/-- R130, R90: a request whose LEN is not FBLEN, or whose OP is not 0x8, sets `diag_req`, is answered with exactly LEN
zero frames, and consumes nothing; STATUS.DIAG follows after synchronization. -/
def Obligations.BadRequestIsZeroedAndFlagged : Prop :=
  ∀ s : State,
    (∀ len : BitVec 28, len.toNat ≠ s.params.fblen →
      exec (.sinkReq len) s = .next { s with c.diagReq := true, out.answer := some (.silence len.toNat) }) ∧
    (∀ w : Word, s.env.req = some w → w.toNat / 2 ^ 28 ≠ 8 →
      perform .sink s = .next { s with
        env.req := none, c.diagReq := true, out.answer := some (.silence (w.toNat % 2 ^ 28)) }) ∧
    (∀ n, (Answer.silence n).words = List.replicate n 0#32) ∧
    (s.c.diagReq = true → s.diagPin = true ∧ (statusWord (syncDiag s).p).getLsbD 6 = true)

/-- R131, R132: a well-formed request is answered with silence while the consumer is not running, which it is not while
the engine is neither open nor opening, nor while it is disabled, and on underrun. -/
def Obligations.StoppedOrEmptyGivesSilence : Prop :=
  ∀ (len : BitVec 28) (s : State), len.toNat = s.params.fblen →
    (s.c.ackC = false → exec (.sinkReq len) s = .next { s with out.answer := some (.silence s.params.fblen) }) ∧
    (s.Inv → s.p.eng ≠ .opened → s.p.phase ≠ .opening → s.c.ackC = false) ∧
    (s.Inv → s.p.disabled = true → s.c.ackC = false) ∧
    (s.c.ackC = true → s.c.wrSeen = s.c.rdCnt →
      exec (.sinkReq len) s = .next { s with out.answer := some (.silence s.params.fblen) })

/-- R118, R133: a running consumer that sees a frame buffer streams slot `readIndex`, frame 0 first, each word as stored,
and then releases the slot. -/
def Obligations.DataIsVerbatimThenReleased : Prop :=
  ∀ (len : BitVec 28) (s : State), s.Inv → len.toNat = s.params.fblen → s.c.ackC = true → s.c.wrSeen ≠ s.c.rdCnt →
    exec (.sinkReq len) s = .next { s with
      c.readIndex := BitVec.ofNat 11 ((s.c.readIndex.toNat + 1) % s.p.capacity.toNat),
      c.rdCnt := s.c.rdCnt + 1,
      c.rdGray := (s.c.rdCnt + 1#11) ^^^ ((s.c.rdCnt + 1#11) >>> 1),
      out.answer := some (.buffer ((List.range s.params.fblen).map fun i =>
        s.ramRead (s.c.readIndex.toNat * s.params.fblen + i))) }

/-- R75, R134: an answer is transferred word by word in order, and `out_last` is 1 on its last frame only. R168: one that
a reset cut off has fewer frames than the whole answer, the first of them, and no `out_last`. -/
def Obligations.LastBeatIsMarkedOnce : Prop :=
  (∀ a : Answer, a.beats.map Prod.fst = a.words ∧ a.beats.length = a.length ∧
    ((∀ ws, a ≠ .cut ws) → ∀ (i : Nat) (h : i < a.beats.length), (a.beats[i].2 = true ↔ i + 1 = a.beats.length)) ∧
    (∀ ws, a = .cut ws → ∀ (i : Nat) (h : i < a.beats.length), a.beats[i].2 = false)) ∧
  ∀ (a : Answer) (n : Nat), (∃ ws, a.cutAfter n = .cut ws) ∧ (a.cutAfter n).words <+: a.words ∧
    (n < a.length → (a.cutAfter n).length = n) ∧ (a.length ≠ 0 → (a.cutAfter n).length < a.length)

/-- R135: the consumer start step. That it changes nothing before all three conditions hold is the model's form of "no
step" (log entry 2, DESIGN CHOICE). -/
def Obligations.ConsumerStartNeedsAllThree : Prop :=
  ∀ s : State,
    (s.c.ackC = false ∧ s.c.runSeen = true ∧ s.c.wrSeen = 0 →
      perform .start s = .next { s with c.ackC := true }) ∧
    (¬ (s.c.ackC = false ∧ s.c.runSeen = true ∧ s.c.wrSeen = 0) → perform .start s = .next s) ∧
    (s.Inv → s.c.ackC = false → s.c.runSeen = true → s.p.wrCnt = 0 ∧ s.c.rdCnt = 0 ∧ s.c.readIndex = 0)

/-- R136: the consumer stop step, when it happens, that it discards what the ring still holds and begins the CLOSE
window, and that the producer completes the CLOSE only after it has seen it. That a stop or a completion whose condition
does not hold changes nothing is the model's form of "no step" (log entry 2, DESIGN CHOICE), and `x.rdJump` is the model's
own bit for the move to 0 that R11 makes due (log entry 5, DEDUCED). -/
def Obligations.ConsumerStopDiscards : Prop :=
  ∀ s : State, s.Inv →
    (¬ (s.c.ackC = true ∧ s.c.runSeen = false) → perform .stop s = .next s) ∧
    (s.c.ackC = true → s.c.runSeen = false →
      s.p.phase = .closing ∧
      ∃ t, perform .stop s = .next t ∧
        t = { s with
          c.readIndex := 0, c.rdCnt := 0, c.rdGray := 0, c.ackC := false,
          x.rdJump := decide (s.p.rdSeen ≠ 0) } ∧
        t.closeWindow = true ∧ t.count = 0 ∧ t.pendingBuffers = []) ∧
    (s.p.phase = .closing → ¬ (s.p.ackSeen = false ∧ s.p.rdSeen = 0) → perform .finishHandshake s = .next s)

/-! ### Lifecycle and status (44_lifecycle.md) -/

/-- R138. -/
def Obligations.NopOnlyAnswers : Prop :=
  (∀ s : State, exec .nop s = .next { s with p.rsp := some { data := 0, code := .ok } }) ∧
  encode .nop = 0x00000000#32 ∧
  (∀ w : Word, w.toNat / 2 ^ 28 = 0 → w ≠ 0 → decodeCommand w = .reject .reservedBits)

/-- R144 and R140: an OPEN that does not open. While OPEN, or while disabled, it is ignored; with NONE = 1 it disables. -/
def Obligations.OpenIsIgnoredOrDisables : Prop :=
  (∀ (noDev : Bool) (req : BitVec 24) (s : State),
    s.p.eng = .opened ∨ (s.p.disabled = true ∧ (s.p.eng = .uninit ∨ s.p.eng = .closed)) →
    exec (.openEngine noDev req) s = .next { s with p.rsp := some { data := 0, code := .ignored } }) ∧
  (∀ (req : BitVec 24) (s : State), s.p.eng = .uninit ∨ s.p.eng = .closed → s.p.disabled = false →
    exec (.openEngine true req) s =
      .next { s with p.disabled := true, p.rsp := some { data := 0, code := .ok } })

/-- R141, R142, R154: the two fatal causes. The allocation fault comes first, whatever `dev_ok` is, and the default RAM
never raises it. -/
def Obligations.FatalOpensEnterFault : Prop :=
  (∀ (req : BitVec 24) (s : State), s.p.eng = .uninit ∨ s.p.eng = .closed → s.p.disabled = false →
    s.params.maxCapImpl < clampCap req.toInt →
    exec (.openEngine false req) s =
      .next { s with p.fAlloc := true, p.eng := .fault, p.rsp := some { data := 0, code := .allocFail } }) ∧
  (∀ req : BitVec 24, ¬ (1024 < clampCap req.toInt)) ∧
  (∀ (req : BitVec 24) (s : State), s.p.eng = .uninit ∨ s.p.eng = .closed → s.p.disabled = false →
    clampCap req.toInt ≤ s.params.maxCapImpl → s.env.devOk = false →
    exec (.openEngine false req) s =
      .next { s with p.fDev := true, p.eng := .fault, p.rsp := some { data := 0, code := .devFail } })

/-- R143: a successful OPEN up to its hold, and its completion, only once the consumer has been seen to run. That the
completion step changes nothing while `ack_seen` = 0 is the model's form of the hold (log entry 2, DESIGN CHOICE), and
`x.wrJump` is the model's own bit for the move to 0 that R11 makes due (log entry 5, DEDUCED). -/
def Obligations.OpenSuccessRequestsTheConsumer : Prop :=
  (∀ (req : BitVec 24) (s : State), s.p.eng = .uninit ∨ s.p.eng = .closed → s.p.disabled = false →
    clampCap req.toInt ≤ s.params.maxCapImpl → s.env.devOk = true →
    exec (.openEngine false req) s = .next { s with
      p.capacity := BitVec.ofNat 11 (clampCap req.toInt), p.cpuAcc := 0, p.audAcc := 0, p.trigCount := 0,
      p.dropCount := 0, p.writeIndex := 0, p.wrCnt := 0, p.wrGray := 0, p.fmRate := s.env.devRate, p.runP := true,
      p.phase := .opening, out.fmInit := true, x.wrJump := decide (s.c.wrSeen ≠ 0) }) ∧
  (∀ s : State, s.p.phase = .opening →
    s.cmdReady = false ∧
    (s.p.ackSeen = true → perform .finishHandshake s = .next { s with
      p.eng := .opened, p.phase := .idle,
      p.rsp := some { data := BitVec.ofNat 32 s.p.capacity.toNat, code := .ok } }) ∧
    (s.p.ackSeen = false → perform .finishHandshake s = .next s))

/-- R145: CLOSE in every lifecycle state. -/
def Obligations.CloseByLifecycleState : Prop :=
  ∀ s : State,
    (s.p.eng = .uninit ∨ s.p.eng = .closed →
      exec .closeEngine s = .next { s with p.rsp := some { data := 0, code := .ok } }) ∧
    (s.p.eng = .opened → exec .closeEngine s = .next { s with p.runP := false, p.phase := .closing }) ∧
    (s.p.eng = .fault → exec .closeEngine s = .next { s with p.rsp := some { data := 0, code := .faulted } })

/-- R146: what a completed CLOSE leaves, and that it completes only after the consumer's stop and zeroed read pointer
have been seen. That the completion step changes nothing before is the model's form of the hold (log entry 2, DESIGN
CHOICE). -/
def Obligations.CloseCompletesClean : Prop :=
  ∀ s : State, s.Inv → s.p.phase = .closing →
    (¬ (s.p.ackSeen = false ∧ s.p.rdSeen = 0) → perform .finishHandshake s = .next s) ∧
    (s.p.ackSeen = false → s.p.rdSeen = 0 →
      ∃ t, perform .finishHandshake s = .next t ∧
        t.p = { s.p with
          writeIndex := 0, wrCnt := 0, wrGray := 0, eng := .closed, phase := .idle,
          rsp := some { data := 0, code := .ok } } ∧
        t.c = s.c ∧ (∀ a, t.ramRead a = s.ramRead a) ∧
        t.count = 0 ∧ t.c.rdCnt = 0 ∧ t.c.rdGray = 0 ∧ t.p.rdSeen = 0 ∧ t.c.ackC = false ∧ t.p.ackSeen = false ∧
        t.p.runP = false ∧ t.closeWindow = false)

/-- R143, R146, R135, R136: both handshakes complete. From a shut engine a successful OPEN reaches OPEN with its
capacity as the response, and from an open one a CLOSE reaches CLOSED, in five further steps of the two agents and the
synchronizers. -/
def Obligations.HandshakesComplete : Prop :=
  ∀ s : State, s.Inv → s.cmdReady = true →
    (∀ req : BitVec 24, openSucceeds false req s = true →
      ∃ t u, exec (.openEngine false req) s = .next t ∧
        play [.syncWr 1, .syncRun, .start, .syncAck, .finishHandshake] t 0 = some (u, 0) ∧
        u.p.eng = .opened ∧ u.p.phase = .idle ∧ u.c.ackC = true ∧
        u.p.rsp = some { data := BitVec.ofNat 32 (clampCap req.toInt), code := .ok }) ∧
    (s.p.eng = .opened →
      ∃ t u, exec .closeEngine s = .next t ∧
        play [.syncRun, .stop, .syncAck, .syncRd 1, .finishHandshake] t 0 = some (u, 0) ∧
        u.p.eng = .closed ∧ u.p.phase = .idle ∧ u.c.ackC = false ∧ u.count = 0 ∧
        u.p.rsp = some { data := 0, code := .ok })

/-- R43 to R53, R147: what CSR_READ of each defined index returns, every field at its place, and that it changes nothing
but the response; and that every CSR from 0x03 on reads 0 right after reset. -/
def Obligations.CsrReadReturnsEachRegister : Prop :=
  (∀ (q : Params) (idx : BitVec 8), 0x03 ≤ idx.toNat → idx.toNat ≤ 0x0A →
    exec (.csrRead idx) (State.fresh q) =
      .next { State.fresh q with p.rsp := some { data := 0, code := .ok } }) ∧
  ∀ s : State, s.params.legal = true →
    let bit := fun (b : Bool) => if b then 1 else 0
    let reads := fun (idx : BitVec 8) (n : Nat) =>
      exec (.csrRead idx) s = .next { s with p.rsp := some { data := BitVec.ofNat 32 n, code := .ok } }
    let state := match s.p.eng with
      | .uninit => 0
      | .opened => 1
      | .closed => 2
      | .fault => 3
    reads 0x00 s.params.fblen ∧
    reads 0x01 s.params.maxCapImpl ∧
    reads 0x02 (s.params.div1 + 2 ^ 8 * s.params.mul1 + 2 ^ 16 * s.params.sampleDiv) ∧
    reads 0x03 (state + 2 ^ 2 * bit s.p.disabled + 2 ^ 3 * bit s.p.ill + 2 ^ 4 * bit s.p.fAlloc +
      2 ^ 5 * bit s.p.fDev + 2 ^ 6 * bit s.p.diagSeen + 2 ^ 7 * bit s.p.runP + 2 ^ 8 * bit s.p.ackSeen) ∧
    reads 0x04 s.p.capacity.toNat ∧
    reads 0x05 s.p.cpuAcc.toNat ∧
    reads 0x06 s.p.audAcc.toNat ∧
    reads 0x07 (s.p.writeIndex.toNat + 2 ^ 16 * s.p.wrCnt.toNat) ∧
    reads 0x08 ((s.p.wrCnt.toNat + 2048 - s.p.rdSeen.toNat) % 2048) ∧
    reads 0x09 s.p.trigCount.toNat ∧
    reads 0x0A s.p.dropCount.toNat

/-- R54. -/
def Obligations.ReservedCsrIsIllegal : Prop :=
  ∀ (idx : BitVec 8) (s : State), 0x0B ≤ idx.toNat →
    decodeCommand (BitVec.ofNat 32 (0x40000000 + idx.toNat)) = .reject .reservedCsr ∧
    exec (.csrRead idx) s =
      .next { s with p.ill := true, p.rsp := some { data := 0, code := .illegal } }

/-- R46, the spec's own inference: when a command can be accepted, STATUS.RUN and STATUS.ACK both say whether the engine
is OPEN. -/
def Obligations.RunAndAckMeanOpenWhenIdle : Prop :=
  ∀ s : State, s.Inv → s.p.phase = .idle →
    (s.p.runP = true ↔ s.p.eng = .opened) ∧ (s.p.ackSeen = true ↔ s.p.eng = .opened)

/-- R149, R155: the FAULT state, that it is entered only from UNINIT or CLOSED, and that only reset leaves it. -/
def Obligations.FaultStateOnlyAnswers : Prop :=
  ∀ s : State, s.Inv → s.p.eng = .fault →
    (∀ (noDev : Bool) (req : BitVec 24),
      exec (.openEngine noDev req) s = .next { s with p.rsp := some { data := 0, code := .faulted } }) ∧
    exec .closeEngine s = .next { s with p.rsp := some { data := 0, code := .faulted } } ∧
    (∀ cycles : BitVec 28,
      exec (.advance cycles) s = .next { s with p.rsp := some { data := 0, code := .faulted } }) ∧
    exec .nop s = .next { s with p.rsp := some { data := 0, code := .ok } } ∧
    (∀ idx : BitVec 8, idx ≤ lastCsr → ∃ v, csrValue idx s = some v ∧
      exec (.csrRead idx) s = .next { s with p.rsp := some { data := v, code := .ok } }) ∧
    (∀ w r, s.env.cmd = some w → s.cmdReady = true → decodeCommand w = .reject r →
      perform .accept s =
        .next { s with env.cmd := none, p.ill := true, p.rsp := some { data := 0, code := .illegal } }) ∧
    (∀ len : BitVec 28, len.toNat = s.params.fblen →
      exec (.sinkReq len) s = .next { s with out.answer := some (.silence s.params.fblen) }) ∧
    s.faultPin = true ∧
    (∀ m u v, u.p.eng ≠ .fault → perform m u = .next v → v.p.eng = .fault → u.p.eng = .uninit ∨ u.p.eng = .closed) ∧
    (∀ m t, moveIsReset m = false → perform m s = .next t → t.p.eng = .fault)

/-- R168, R155, R16 to R18, R36: only reset clears the sticky bits and leaves FAULT. -/
def Obligations.StickyBitsLastUntilReset : Prop :=
  ∀ (m : Move) (s t : State), s.Inv → moveIsReset m = false → perform m s = .next t →
    (s.p.ill = true → t.p.ill = true) ∧ (s.p.disabled = true → t.p.disabled = true) ∧
    (s.p.fAlloc = true → t.p.fAlloc = true) ∧ (s.p.fDev = true → t.p.fDev = true) ∧
    (s.c.diagReq = true → t.c.diagReq = true) ∧ (s.p.eng = .fault → t.p.eng = .fault)

/-- R55: the only writers of the status flags. -/
def Obligations.StatusFlagsHaveOneWriter : Prop :=
  ∀ (m : Move) (s t : State), moveIsReset m = false → perform m s = .next t →
    (t.p.ill ≠ s.p.ill → m = .accept ∧ ∃ w r, s.env.cmd = some w ∧ decodeCommand w = .reject r) ∧
    (t.p.fAlloc ≠ s.p.fAlloc ∨ t.p.fDev ≠ s.p.fDev →
      m = .accept ∧ ∃ req, s.acceptable = some (.openEngine false req)) ∧
    (t.p.disabled ≠ s.p.disabled → m = .accept ∧ ∃ req, s.acceptable = some (.openEngine true req)) ∧
    (t.c.diagReq ≠ s.c.diagReq → m = .sink)

/-! ### Frames and domains -/

/-- 20_memory.md section 1: no instruction writes a frame word itself; the ring RAM is written only by a trigger step.
00_scope.md section 3: the parameters are constant. 30_encoding.md section 1: the inputs are the environment's. `agenda`
and `draws` (log entry 1) and `lags` (log entry 3) are the model's own fields, which no instruction touches. -/
def Obligations.InstructionsLeaveTheRamAlone : Prop :=
  ∀ (i : Instr) (s t : State), exec i s = .next t →
    (∀ a, t.ramRead a = s.ramRead a) ∧ t.params = s.params ∧ t.agenda = s.agenda ∧ t.draws = s.draws ∧
    t.lags = s.lags ∧ t.env = s.env

/-- What each command may change when it is accepted; every other register, flag and pointer, the consumer's domain and
every frame word are as before. -/
def Obligations.CommandsKeepTheirFrame : Prop :=
  ∀ s t : State,
    (exec .nop s = .next t → t = { s with p.rsp := t.p.rsp }) ∧
    (∀ idx, idx ≤ lastCsr → exec (.csrRead idx) s = .next t → t = { s with p.rsp := t.p.rsp }) ∧
    (exec .closeEngine s = .next t →
      t = { s with p.rsp := t.p.rsp, p.runP := t.p.runP, p.phase := t.p.phase }) ∧
    (∀ cycles, exec (.advance cycles) s = .next t →
      t = { s with p.rsp := t.p.rsp, p.cpuAcc := t.p.cpuAcc, p.audAcc := t.p.audAcc, p.advTrigs := t.p.advTrigs,
                   p.phase := t.p.phase }) ∧
    (∀ noDev req, exec (.openEngine noDev req) s = .next t →
      t.c = s.c ∧ t.x.rdJump = s.x.rdJump ∧ t.ram = s.ram ∧ t.env = s.env ∧ t.p.ill = s.p.ill ∧
      t.p.advTrigs = s.p.advTrigs ∧ t.p.rdSeen = s.p.rdSeen ∧ t.p.ackSeen = s.p.ackSeen ∧
      t.p.diagSeen = s.p.diagSeen)

/-- What a sink request may change: the read side's pointers, `diag_req` and the output stream. -/
def Obligations.SinkRequestKeepsItsFrame : Prop :=
  ∀ (len : BitVec 28) (s t : State), exec (.sinkReq len) s = .next t →
    t = { s with c.readIndex := t.c.readIndex, c.rdCnt := t.c.rdCnt, c.rdGray := t.c.rdGray,
                 c.diagReq := t.c.diagReq, out.answer := t.out.answer }

/-- R126 and 10_state.md: each agent writes only its own domain, and each pointer has one writer. -/
def Obligations.AgentsWriteOnlyTheirDomain : Prop :=
  ∀ (m : Move) (s t : State), perform m s = .next t →
    (moveOfProducer m = true → t.c = s.c) ∧
    (moveOfConsumer m = true → t.p = s.p ∧ ∀ a, t.ramRead a = s.ramRead a) ∧
    (moveIsReset m = false → moveOfProducer m = false →
      t.p.wrCnt = s.p.wrCnt ∧ t.p.wrGray = s.p.wrGray ∧ t.p.writeIndex = s.p.writeIndex ∧ t.p.capacity = s.p.capacity ∧
      ∀ a, t.ramRead a = s.ramRead a) ∧
    (moveIsReset m = false → moveOfConsumer m = false →
      t.c.rdCnt = s.c.rdCnt ∧ t.c.rdGray = s.c.rdGray ∧ t.c.readIndex = s.c.readIndex ∧ t.c.ackC = s.c.ackC)

/-! ### The whole machine -/

/-- R56, R166, R167, R168: reset from every state, whatever it cuts off. The ring RAM's contents are free, so nothing is
said of them. No response is given. The parameters are kept, and so are the inputs where nothing is cut off (log entry 8,
DESIGN CHOICE). A stream that is cut off shows its first frames, the same that the whole request would have shown, without
`out_last`, and its request is gone; of a trigger that is cut off only the frames taken from the sources are gone. -/
def Obligations.ResetGivesTheTable : Prop :=
  ∀ (s : State) (cut : Cut), ∃ t, perform (.reset cut) s = .next t ∧
    t.p = { phase := .idle, advTrigs := 0, eng := .uninit, disabled := false, ill := false, fAlloc := false,
            fDev := false, capacity := 0, cpuAcc := 0, audAcc := 0, writeIndex := 0, wrCnt := 0, wrGray := 0,
            rdSeen := 0, runP := false, ackSeen := false, trigCount := 0, dropCount := 0, fmRate := 0,
            diagSeen := false, rsp := none } ∧
    t.c = { readIndex := 0, rdCnt := 0, rdGray := 0, wrSeen := 0, runSeen := false, ackC := false,
            diagReq := false } ∧
    t.p = State.reset.p ∧ t.c = State.reset.c ∧ t.params = s.params ∧
    t.env.cmd = s.env.cmd ∧ t.env.devOk = s.env.devOk ∧ t.env.devRate = s.env.devRate ∧
    (cut = Cut.nothing → t.env = s.env ∧ t.out = { fmInit := false, srcStart := false, answer := none }) ∧
    (∀ n u a, cut.stream = some n → s.env.req ≠ none → perform .sink s = .next u → u.out.answer = some a →
      t.env.req = none ∧ ∃ b, t.out.answer = some b ∧ b.words = a.words.take (min n (a.length - 1)) ∧
        b.beats = b.words.map (fun w => (w, false))) ∧
    (s.env.req = none ∨ cut.stream = none → t.out.answer = none ∧ t.env.req = s.env.req) ∧
    (∀ i j k, cut.render = some (i, j, k) → triggerDue s = true → t.out.srcStart = true ∧
      t.env.psg = s.env.psg.drop (min i s.params.fblen) ∧ t.env.pcm = s.env.pcm.drop (min j s.params.fblen) ∧
      t.env.fm = s.env.fm.drop (min k s.params.fblen))

/-- The invariant holds right after reset, for every legal parameter set. -/
def Obligations.ResetHasTheInvariant : Prop :=
  ∀ q : Params, q.legal = true → (State.fresh q).Inv

/-- Every step of the machine keeps the invariant. -/
def Obligations.StepKeepsTheInvariant : Prop :=
  ∀ s t : State, s.Inv → step s = .next t → t.Inv

/-- R65, the spec's own inference: no access of a state with the invariant can leave the ring RAM, so no step faults. -/
def Obligations.StepNeverFaults : Prop :=
  ∀ s : State, s.Inv → ∀ f, step s ≠ .fault f

/-- R5: a legal parameter set is exactly the rule's, and an illegal one is refused. -/
def Obligations.IllegalParametersAreRefused : Prop :=
  State.reset.params.legal = true ∧
  ∀ s : State,
    (s.params.legal = true ↔
      ((1 ≤ s.params.fblen ∧ s.params.fblen ≤ 65535) ∧ (1 ≤ s.params.div1 ∧ s.params.div1 ≤ 255) ∧
       (1 ≤ s.params.mul1 ∧ s.params.mul1 ≤ 255) ∧ (1 ≤ s.params.sampleDiv ∧ s.params.sampleDiv ≤ 65535) ∧
       (3 ≤ s.params.maxCapImpl ∧ s.params.maxCapImpl ≤ 1024) ∧ 2 ≤ s.params.syncStages) ∧
      s.params.maxCapImpl < 2048 ∧
      (2 ^ 28 - 1 + s.params.div1 - 1) / s.params.div1 * s.params.mul1 +
        s.params.fblen * s.params.sampleDiv - 1 < 2 ^ 32) ∧
    (s.params.legal = false → step s = .refused .illegalParameters)

/-- A step performs the head of the agenda (log entry 1, DESIGN CHOICE), with the agenda moved on and the outputs quiet,
unless a view is overdue, when it performs that view's move (R11, Fairness; log entry 3, DESIGN CHOICE). One that accepts a
presented word runs the instruction it decodes to, on the port it was presented on. While `cmd_ready` = 0 (R74, R78, R175)
a presented word is not accepted: it stays presented, and the accept step changes nothing, the model's form of "no step"
(log entry 2, DESIGN CHOICE). A pending response is held until the host takes it or a reset comes, and taking it changes
nothing else (R74, R78). -/
def Obligations.StepRunsTheDecodedInstruction : Prop :=
  (∀ (s : State) (ms : List Move) (w : Word) (i : Instr), s.params.legal = true →
    let now := { s with agenda := ms, draws := s.draws + 1, lags := nextLags s,
                        out := { fmInit := false, srcStart := false, answer := none } }
    (∀ v, s.overdue = some v → s.agenda = ms → step s = perform (catchUp v) now) ∧
    (∀ m, s.overdue = none → s.agenda = m :: ms → step s = perform m now) ∧
    (s.overdue = none → s.agenda = .accept :: ms → s.env.cmd = some w → s.p.phase = .idle → s.p.rsp = none →
      decodeCommand w = .instr i → step s = exec i { now with env.cmd := none }) ∧
    (s.overdue = none → s.agenda = .sink :: ms → s.env.req = some w → decodeRequest w = .instr i →
      step s = exec i { now with env.req := none })) ∧
  (∀ s : State, s.p.phase ≠ .idle ∨ s.p.rsp ≠ none → s.cmdReady = false ∧ perform .accept s = .next s) ∧
  (∀ (s t : State) (m : Move) (r : Response), s.Inv → s.p.rsp = some r → m ≠ .hostTake → moveIsReset m = false →
    perform m s = .next t → t.p.rsp = some r) ∧
  (∀ s : State, perform .hostTake s = .next { s with p.rsp := none })

/-- A word placed for the next step runs as its instruction, whatever the state was. This rests wholly on
`withFetchWord`, which presents the word, schedules its acceptance next with no view overdue, and for a command makes the
sequencer IDLE and drops a pending response: the model's choice (log entry 17, DESIGN CHOICE). -/
def Obligations.PlacedWordRunsNext : Prop :=
  ∀ (s : State) (i : Instr), s.params.legal = true → i.wf = true →
    let placed := s.withFetchWord 32 (encode i).toNat
    let now := { s with out := Outputs.quiet, draws := s.draws + 1, lags := nextLags placed }
    step placed =
      match i.port with
      | .command => exec i { now with env.cmd := none, p.phase := .idle, p.rsp := none }
      | .consumer => exec i { now with env.req := none }

/-- R165, R78: an unstable word on either port is refused. -/
def Obligations.UnstableWordsAreRefused : Prop :=
  ∀ (s : State) (w : Word) (v : Option Word), v ≠ some w →
    (s.env.cmd = some w → perform (.hostDrive v) s = .refused .unstableCommand) ∧
    (s.env.req = some w → perform (.deviceDrive v) s = .refused .unstableRequest)
end

