-- ==== Sys2Proof/Laws/Memory.lean ====
section
/-! SUPPORT. The ring RAM: read after write, writes elsewhere, the canonical form, and what writing and reading a frame buffer do. -/

namespace Sys2Proof.Machine

open Sys2Proof

theorem Memory.get?_put_same (m : Memory) (a : Nat) (v : Word) : (m.put a v).get? a = some v := by
  induction m with
  | nil => simp [Memory.put, Memory.get?]
  | cons cell m ih =>
    obtain ⟨b, u⟩ := cell
    simp only [Memory.put]
    split
    · simp [Memory.get?]
    · split
      · simp [Memory.get?]
      · simp [Memory.get?, *]

theorem Memory.get?_put_other (m : Memory) {a b : Nat} (v : Word) (h : b ≠ a) : (m.put a v).get? b = m.get? b := by
  induction m with
  | nil => simp [Memory.put, Memory.get?, h]
  | cons cell m ih =>
    obtain ⟨c, u⟩ := cell
    simp only [Memory.put]
    split
    · simp [Memory.get?, h]
    · split
      · subst_vars; simp [Memory.get?, h]
      · simp [Memory.get?, ih]

theorem Memory.mem_put {m : Memory} {a : Nat} {v : Word} {cell : Nat × Word} (h : cell ∈ m.put a v) :
    cell.1 = a ∨ cell ∈ m := by
  induction m with
  | nil => simp [Memory.put] at h; simp [h]
  | cons c m ih =>
    obtain ⟨b, u⟩ := c
    simp only [Memory.put] at h
    split at h
    · rcases List.mem_cons.1 h with rfl | h
      · exact .inl rfl
      · exact .inr h
    · split at h
      · rcases List.mem_cons.1 h with rfl | h
        · exact .inl rfl
        · exact .inr (List.mem_cons_of_mem _ h)
      · rcases List.mem_cons.1 h with rfl | h
        · exact .inr List.mem_cons_self
        · exact (ih h).imp id (List.mem_cons_of_mem _)

/-- Every write keeps the canonical form. -/
theorem Memory.put_wf {m : Memory} (a : Nat) (v : Word) (h : m.wf) : (m.put a v).wf := by
  induction m with
  | nil => simp [Memory.put, Memory.wf]
  | cons c m ih =>
    obtain ⟨b, u⟩ := c
    simp only [Memory.wf, List.map_cons, List.pairwise_cons] at h ih ⊢
    simp only [Memory.put]
    split
    · rename_i hab
      simp only [List.map_cons, List.pairwise_cons, List.mem_cons, forall_eq_or_imp]
      exact ⟨⟨hab, fun x hx => hab.trans (h.1 x hx)⟩, h⟩
    · split
      · subst_vars; simpa using h
      · rename_i h1 h2
        simp only [List.map_cons, List.pairwise_cons]
        refine ⟨fun x hx => ?_, ih h.2⟩
        obtain ⟨cell, hc, rfl⟩ := List.mem_map.1 hx
        rcases Memory.mem_put hc with he | hm
        · omega
        · exact h.1 _ (List.mem_map_of_mem hm)

theorem reset_ram_wf : State.reset.ram.wf := List.Pairwise.nil

@[simp] theorem Memory.read_put_same (m : Memory) (e a : Nat) (v : Word) : (m.put a v).read e a = v := by
  simp [Memory.read, Memory.get?_put_same]

theorem Memory.read_put_other (m : Memory) (e : Nat) {a b : Nat} (v : Word) (h : b ≠ a) :
    (m.put a v).read e b = m.read e b := by
  simp [Memory.read, Memory.get?_put_other m v h]

/-- Writing a frame buffer succeeds when all of it lies inside the RAM. -/
theorem writeFrames_succeeds (size : Nat) (ws : List Word) :
    ∀ (m : Memory) (a : Nat), a + ws.length ≤ size → ∃ m', writeFrames size m a ws = .ok m' := by
  induction ws with
  | nil => intro m a _; exact ⟨m, rfl⟩
  | cons w ws ih =>
    intro m a h
    simp only [List.length_cons] at h
    obtain ⟨m', hm'⟩ := ih (m.put a w) (a + 1) (by omega)
    exact ⟨m', by simp [writeFrames, show a < size by omega, hm']⟩

/-- What writing a frame buffer does, in one place: the canonical form and the address range are kept, the words are
where they were put, and every other address reads as before. -/
theorem writeFrames_spec {size : Nat} {ws : List Word} :
    ∀ {m m' : Memory} {a : Nat}, writeFrames size m a ws = .ok m' →
      (m.wf → m'.wf) ∧
      ((∀ cell ∈ m, cell.1 < size) → ∀ cell ∈ m', cell.1 < size) ∧
      (∀ i (hi : i < ws.length), m'.get? (a + i) = some ws[i]) ∧
      (∀ b, b < a ∨ a + ws.length ≤ b → m'.get? b = m.get? b) := by
  induction ws with
  | nil =>
    intro m m' a h
    simp only [writeFrames, Except.ok.injEq] at h
    subst h
    exact ⟨id, id, by simp, fun _ _ => rfl⟩
  | cons w ws ih =>
    intro m m' a h
    simp only [writeFrames] at h
    split at h
    · rename_i hlt
      obtain ⟨hwf, hrange, hin, hout⟩ := ih h
      refine ⟨fun hm => hwf (Memory.put_wf a w hm), fun hm => hrange fun cell hc => ?_, fun i hi => ?_, fun b hb => ?_⟩
      · rcases Memory.mem_put hc with he | hm'
        · omega
        · exact hm _ hm'
      · cases i with
        | zero => simp [hout a (by omega), Memory.get?_put_same]
        | succ i =>
          simp only [List.length_cons] at hi
          have := hin i (by omega)
          simpa [Nat.add_assoc, Nat.add_comm 1 i] using this
      · simp only [List.length_cons] at hb
        rw [hout b (by omega), Memory.get?_put_other _ _ (by omega)]
    · cases h

/-- Reading a frame buffer that lies inside the RAM gives its words in order. -/
theorem readFrames_eq (size : Nat) (m : Memory) (e n : Nat) :
    ∀ a, a + n ≤ size → readFrames size m e a n = .ok ((List.range n).map fun i => m.read e (a + i)) := by
  induction n with
  | zero => intro a _; rfl
  | succ n ih =>
    intro a h
    have hn := ih (a + 1) (by omega)
    simp only [readFrames, show a < size by omega, if_true, hn, List.range_succ_eq_map, List.map_cons, List.map_map,
      Nat.add_zero]
    simp only [Except.ok.injEq, List.cons.injEq, true_and, List.map_inj_left, Function.comp]
    intro i _
    rw [show a + 1 + i = a + (i + 1) by omega]

end Sys2Proof.Machine
end

