-- ==== Sys2Proof/Laws/State.lean ====
section
/-! SUPPORT. One lemma per field of State per named update, so that no proof unfolds an update. -/

namespace Sys2Proof.Machine

open Sys2Proof

@[simp] theorem respond_params (s : State) (d : Word) (k : RspCode) : (s.respond d k).params = s.params := rfl
@[simp] theorem respond_p (s : State) (d : Word) (k : RspCode) :
    (s.respond d k).p = { s.p with rsp := some { data := d, code := k } } := rfl
@[simp] theorem respond_c (s : State) (d : Word) (k : RspCode) : (s.respond d k).c = s.c := rfl
@[simp] theorem respond_x (s : State) (d : Word) (k : RspCode) : (s.respond d k).x = s.x := rfl
@[simp] theorem respond_ram (s : State) (d : Word) (k : RspCode) : (s.respond d k).ram = s.ram := rfl
@[simp] theorem respond_ramEpoch (s : State) (d : Word) (k : RspCode) : (s.respond d k).ramEpoch = s.ramEpoch := rfl
@[simp] theorem respond_env (s : State) (d : Word) (k : RspCode) : (s.respond d k).env = s.env := rfl
@[simp] theorem respond_out (s : State) (d : Word) (k : RspCode) : (s.respond d k).out = s.out := rfl
@[simp] theorem respond_agenda (s : State) (d : Word) (k : RspCode) : (s.respond d k).agenda = s.agenda := rfl
@[simp] theorem respond_draws (s : State) (d : Word) (k : RspCode) : (s.respond d k).draws = s.draws := rfl
@[simp] theorem respond_lags (s : State) (d : Word) (k : RspCode) : (s.respond d k).lags = s.lags := rfl

@[simp] theorem takeIllegal_params (s : State) : (takeIllegal s).params = s.params := rfl
@[simp] theorem takeIllegal_p (s : State) :
    (takeIllegal s).p = { s.p with ill := true, rsp := some { data := 0, code := .illegal } } := rfl
@[simp] theorem takeIllegal_c (s : State) : (takeIllegal s).c = s.c := rfl
@[simp] theorem takeIllegal_x (s : State) : (takeIllegal s).x = s.x := rfl
@[simp] theorem takeIllegal_ram (s : State) : (takeIllegal s).ram = s.ram := rfl
@[simp] theorem takeIllegal_ramEpoch (s : State) : (takeIllegal s).ramEpoch = s.ramEpoch := rfl
@[simp] theorem takeIllegal_env (s : State) : (takeIllegal s).env = s.env := rfl
@[simp] theorem takeIllegal_out (s : State) : (takeIllegal s).out = s.out := rfl
@[simp] theorem takeIllegal_agenda (s : State) : (takeIllegal s).agenda = s.agenda := rfl
@[simp] theorem takeIllegal_draws (s : State) : (takeIllegal s).draws = s.draws := rfl
@[simp] theorem takeIllegal_lags (s : State) : (takeIllegal s).lags = s.lags := rfl

@[simp] theorem enterFault_alloc_params (s : State) : (enterFault .alloc s).params = s.params := rfl
@[simp] theorem enterFault_alloc_p (s : State) :
    (enterFault .alloc s).p =
      { s.p with fAlloc := true, eng := .fault, rsp := some { data := 0, code := .allocFail } } := rfl
@[simp] theorem enterFault_alloc_c (s : State) : (enterFault .alloc s).c = s.c := rfl
@[simp] theorem enterFault_alloc_x (s : State) : (enterFault .alloc s).x = s.x := rfl
@[simp] theorem enterFault_alloc_ram (s : State) : (enterFault .alloc s).ram = s.ram := rfl
@[simp] theorem enterFault_alloc_ramEpoch (s : State) : (enterFault .alloc s).ramEpoch = s.ramEpoch := rfl
@[simp] theorem enterFault_alloc_env (s : State) : (enterFault .alloc s).env = s.env := rfl
@[simp] theorem enterFault_alloc_out (s : State) : (enterFault .alloc s).out = s.out := rfl
@[simp] theorem enterFault_alloc_agenda (s : State) : (enterFault .alloc s).agenda = s.agenda := rfl
@[simp] theorem enterFault_alloc_draws (s : State) : (enterFault .alloc s).draws = s.draws := rfl
@[simp] theorem enterFault_alloc_lags (s : State) : (enterFault .alloc s).lags = s.lags := rfl

@[simp] theorem enterFault_dev_params (s : State) : (enterFault .dev s).params = s.params := rfl
@[simp] theorem enterFault_dev_p (s : State) :
    (enterFault .dev s).p =
      { s.p with fDev := true, eng := .fault, rsp := some { data := 0, code := .devFail } } := rfl
@[simp] theorem enterFault_dev_c (s : State) : (enterFault .dev s).c = s.c := rfl
@[simp] theorem enterFault_dev_x (s : State) : (enterFault .dev s).x = s.x := rfl
@[simp] theorem enterFault_dev_ram (s : State) : (enterFault .dev s).ram = s.ram := rfl
@[simp] theorem enterFault_dev_ramEpoch (s : State) : (enterFault .dev s).ramEpoch = s.ramEpoch := rfl
@[simp] theorem enterFault_dev_env (s : State) : (enterFault .dev s).env = s.env := rfl
@[simp] theorem enterFault_dev_out (s : State) : (enterFault .dev s).out = s.out := rfl
@[simp] theorem enterFault_dev_agenda (s : State) : (enterFault .dev s).agenda = s.agenda := rfl
@[simp] theorem enterFault_dev_draws (s : State) : (enterFault .dev s).draws = s.draws := rfl
@[simp] theorem enterFault_dev_lags (s : State) : (enterFault .dev s).lags = s.lags := rfl

@[simp] theorem afterReset_params (s : State) : (s.afterReset).params = s.params := rfl
@[simp] theorem afterReset_p (s : State) : (s.afterReset).p = Producer.reset := rfl
@[simp] theorem afterReset_c (s : State) : (s.afterReset).c = Consumer.reset := rfl
@[simp] theorem afterReset_x (s : State) : (s.afterReset).x = Crossing.reset := rfl
@[simp] theorem afterReset_ram (s : State) : (s.afterReset).ram = [] := rfl
@[simp] theorem afterReset_ramEpoch (s : State) : (s.afterReset).ramEpoch = s.ramEpoch + 1 := rfl
@[simp] theorem afterReset_env (s : State) : (s.afterReset).env = s.env := rfl
@[simp] theorem afterReset_out (s : State) : (s.afterReset).out = s.out := rfl
@[simp] theorem afterReset_agenda (s : State) : (s.afterReset).agenda = s.agenda := rfl
@[simp] theorem afterReset_draws (s : State) : (s.afterReset).draws = s.draws := rfl
@[simp] theorem afterReset_lags (s : State) : (s.afterReset).lags = s.lags := rfl

@[simp] theorem resetWritePointers_params (s : State) : (s.resetWritePointers).params = s.params := rfl
@[simp] theorem resetWritePointers_p (s : State) :
    (s.resetWritePointers).p = { s.p with writeIndex := 0, wrCnt := 0, wrGray := 0 } := rfl
@[simp] theorem resetWritePointers_c (s : State) : (s.resetWritePointers).c = s.c := rfl
@[simp] theorem resetWritePointers_x (s : State) :
    (s.resetWritePointers).x = { s.x with wrJump := decide (s.c.wrSeen ≠ 0) } := rfl
@[simp] theorem resetWritePointers_ram (s : State) : (s.resetWritePointers).ram = s.ram := rfl
@[simp] theorem resetWritePointers_ramEpoch (s : State) : (s.resetWritePointers).ramEpoch = s.ramEpoch := rfl
@[simp] theorem resetWritePointers_env (s : State) : (s.resetWritePointers).env = s.env := rfl
@[simp] theorem resetWritePointers_out (s : State) : (s.resetWritePointers).out = s.out := rfl
@[simp] theorem resetWritePointers_agenda (s : State) : (s.resetWritePointers).agenda = s.agenda := rfl
@[simp] theorem resetWritePointers_draws (s : State) : (s.resetWritePointers).draws = s.draws := rfl
@[simp] theorem resetWritePointers_lags (s : State) : (s.resetWritePointers).lags = s.lags := rfl

@[simp] theorem resetReadPointers_params (s : State) : (s.resetReadPointers).params = s.params := rfl
@[simp] theorem resetReadPointers_p (s : State) : (s.resetReadPointers).p = s.p := rfl
@[simp] theorem resetReadPointers_c (s : State) :
    (s.resetReadPointers).c = { s.c with readIndex := 0, rdCnt := 0, rdGray := 0 } := rfl
@[simp] theorem resetReadPointers_x (s : State) :
    (s.resetReadPointers).x = { s.x with rdJump := decide (s.p.rdSeen ≠ 0) } := rfl
@[simp] theorem resetReadPointers_ram (s : State) : (s.resetReadPointers).ram = s.ram := rfl
@[simp] theorem resetReadPointers_ramEpoch (s : State) : (s.resetReadPointers).ramEpoch = s.ramEpoch := rfl
@[simp] theorem resetReadPointers_env (s : State) : (s.resetReadPointers).env = s.env := rfl
@[simp] theorem resetReadPointers_out (s : State) : (s.resetReadPointers).out = s.out := rfl
@[simp] theorem resetReadPointers_agenda (s : State) : (s.resetReadPointers).agenda = s.agenda := rfl
@[simp] theorem resetReadPointers_draws (s : State) : (s.resetReadPointers).draws = s.draws := rfl
@[simp] theorem resetReadPointers_lags (s : State) : (s.resetReadPointers).lags = s.lags := rfl

@[simp] theorem emit_params (s : State) (a : Answer) : (s.emit a).params = s.params := rfl
@[simp] theorem emit_p (s : State) (a : Answer) : (s.emit a).p = s.p := rfl
@[simp] theorem emit_c (s : State) (a : Answer) : (s.emit a).c = s.c := rfl
@[simp] theorem emit_x (s : State) (a : Answer) : (s.emit a).x = s.x := rfl
@[simp] theorem emit_ram (s : State) (a : Answer) : (s.emit a).ram = s.ram := rfl
@[simp] theorem emit_ramEpoch (s : State) (a : Answer) : (s.emit a).ramEpoch = s.ramEpoch := rfl
@[simp] theorem emit_env (s : State) (a : Answer) : (s.emit a).env = s.env := rfl
@[simp] theorem emit_out (s : State) (a : Answer) : (s.emit a).out = { s.out with answer := some a } := rfl
@[simp] theorem emit_agenda (s : State) (a : Answer) : (s.emit a).agenda = s.agenda := rfl
@[simp] theorem emit_draws (s : State) (a : Answer) : (s.emit a).draws = s.draws := rfl
@[simp] theorem emit_lags (s : State) (a : Answer) : (s.emit a).lags = s.lags := rfl

@[simp] theorem publish_params (s : State) : (publish s).params = s.params := rfl
@[simp] theorem publish_p (s : State) :
    (publish s).p =
      { s.p with writeIndex := nextIndex s.p.writeIndex s.p.capacity, wrCnt := s.p.wrCnt + 1, wrGray := gray (s.p.wrCnt + 1) } := rfl
@[simp] theorem publish_c (s : State) : (publish s).c = s.c := rfl
@[simp] theorem publish_x (s : State) : (publish s).x = s.x := rfl
@[simp] theorem publish_ram (s : State) : (publish s).ram = s.ram := rfl
@[simp] theorem publish_ramEpoch (s : State) : (publish s).ramEpoch = s.ramEpoch := rfl
@[simp] theorem publish_env (s : State) : (publish s).env = s.env := rfl
@[simp] theorem publish_out (s : State) : (publish s).out = s.out := rfl
@[simp] theorem publish_agenda (s : State) : (publish s).agenda = s.agenda := rfl
@[simp] theorem publish_draws (s : State) : (publish s).draws = s.draws := rfl
@[simp] theorem publish_lags (s : State) : (publish s).lags = s.lags := rfl

@[simp] theorem release_params (s : State) : (release s).params = s.params := rfl
@[simp] theorem release_p (s : State) : (release s).p = s.p := rfl
@[simp] theorem release_c (s : State) :
    (release s).c =
      { s.c with readIndex := nextIndex s.c.readIndex s.p.capacity, rdCnt := s.c.rdCnt + 1, rdGray := gray (s.c.rdCnt + 1) } := rfl
@[simp] theorem release_x (s : State) : (release s).x = s.x := rfl
@[simp] theorem release_ram (s : State) : (release s).ram = s.ram := rfl
@[simp] theorem release_ramEpoch (s : State) : (release s).ramEpoch = s.ramEpoch := rfl
@[simp] theorem release_env (s : State) : (release s).env = s.env := rfl
@[simp] theorem release_out (s : State) : (release s).out = s.out := rfl
@[simp] theorem release_agenda (s : State) : (release s).agenda = s.agenda := rfl
@[simp] theorem release_draws (s : State) : (release s).draws = s.draws := rfl
@[simp] theorem release_lags (s : State) : (release s).lags = s.lags := rfl

@[simp] theorem renderSources_params (s : State) : (renderSources s).params = s.params := rfl
@[simp] theorem renderSources_p (s : State) : (renderSources s).p = s.p := rfl
@[simp] theorem renderSources_c (s : State) : (renderSources s).c = s.c := rfl
@[simp] theorem renderSources_x (s : State) : (renderSources s).x = s.x := rfl
@[simp] theorem renderSources_ram (s : State) : (renderSources s).ram = s.ram := rfl
@[simp] theorem renderSources_ramEpoch (s : State) : (renderSources s).ramEpoch = s.ramEpoch := rfl
@[simp] theorem renderSources_env (s : State) :
    (renderSources s).env =
      { s.env with psg := s.env.psg.drop s.params.fblen, pcm := s.env.pcm.drop s.params.fblen, fm := s.env.fm.drop s.params.fblen } := rfl
@[simp] theorem renderSources_out (s : State) : (renderSources s).out = { s.out with srcStart := true } := rfl
@[simp] theorem renderSources_agenda (s : State) : (renderSources s).agenda = s.agenda := rfl
@[simp] theorem renderSources_draws (s : State) : (renderSources s).draws = s.draws := rfl
@[simp] theorem renderSources_lags (s : State) : (renderSources s).lags = s.lags := rfl

@[simp] theorem countTrigger_params (s : State) : (countTrigger s).params = s.params := rfl
@[simp] theorem countTrigger_p (s : State) : (countTrigger s).p = { s.p with trigCount := s.p.trigCount + 1 } := rfl
@[simp] theorem countTrigger_c (s : State) : (countTrigger s).c = s.c := rfl
@[simp] theorem countTrigger_x (s : State) : (countTrigger s).x = s.x := rfl
@[simp] theorem countTrigger_ram (s : State) : (countTrigger s).ram = s.ram := rfl
@[simp] theorem countTrigger_ramEpoch (s : State) : (countTrigger s).ramEpoch = s.ramEpoch := rfl
@[simp] theorem countTrigger_env (s : State) : (countTrigger s).env = s.env := rfl
@[simp] theorem countTrigger_out (s : State) : (countTrigger s).out = s.out := rfl
@[simp] theorem countTrigger_agenda (s : State) : (countTrigger s).agenda = s.agenda := rfl
@[simp] theorem countTrigger_draws (s : State) : (countTrigger s).draws = s.draws := rfl
@[simp] theorem countTrigger_lags (s : State) : (countTrigger s).lags = s.lags := rfl

@[simp] theorem dropBuffer_params (s : State) : (dropBuffer s).params = s.params := rfl
@[simp] theorem dropBuffer_p (s : State) : (dropBuffer s).p = { s.p with dropCount := s.p.dropCount + 1 } := rfl
@[simp] theorem dropBuffer_c (s : State) : (dropBuffer s).c = s.c := rfl
@[simp] theorem dropBuffer_x (s : State) : (dropBuffer s).x = s.x := rfl
@[simp] theorem dropBuffer_ram (s : State) : (dropBuffer s).ram = s.ram := rfl
@[simp] theorem dropBuffer_ramEpoch (s : State) : (dropBuffer s).ramEpoch = s.ramEpoch := rfl
@[simp] theorem dropBuffer_env (s : State) : (dropBuffer s).env = s.env := rfl
@[simp] theorem dropBuffer_out (s : State) : (dropBuffer s).out = s.out := rfl
@[simp] theorem dropBuffer_agenda (s : State) : (dropBuffer s).agenda = s.agenda := rfl
@[simp] theorem dropBuffer_draws (s : State) : (dropBuffer s).draws = s.draws := rfl
@[simp] theorem dropBuffer_lags (s : State) : (dropBuffer s).lags = s.lags := rfl

@[simp] theorem takeThresh_params (s : State) : (takeThresh s).params = s.params := rfl
@[simp] theorem takeThresh_p (s : State) :
    (takeThresh s).p = { s.p with audAcc := BitVec.ofNat 32 (s.p.audAcc.toNat - s.params.thresh) } := rfl
@[simp] theorem takeThresh_c (s : State) : (takeThresh s).c = s.c := rfl
@[simp] theorem takeThresh_x (s : State) : (takeThresh s).x = s.x := rfl
@[simp] theorem takeThresh_ram (s : State) : (takeThresh s).ram = s.ram := rfl
@[simp] theorem takeThresh_ramEpoch (s : State) : (takeThresh s).ramEpoch = s.ramEpoch := rfl
@[simp] theorem takeThresh_env (s : State) : (takeThresh s).env = s.env := rfl
@[simp] theorem takeThresh_out (s : State) : (takeThresh s).out = s.out := rfl
@[simp] theorem takeThresh_agenda (s : State) : (takeThresh s).agenda = s.agenda := rfl
@[simp] theorem takeThresh_draws (s : State) : (takeThresh s).draws = s.draws := rfl
@[simp] theorem takeThresh_lags (s : State) : (takeThresh s).lags = s.lags := rfl

@[simp] theorem stage1_params (n : Nat) (s : State) : (stage1 n s).params = s.params := rfl
@[simp] theorem stage1_p (n : Nat) (s : State) :
    (stage1 n s).p = { s.p with
      cpuAcc := BitVec.ofNat 32 ((s.p.cpuAcc.toNat + n) % s.params.div1),
      audAcc := BitVec.ofNat 32 (s.p.audAcc.toNat + (s.p.cpuAcc.toNat + n) / s.params.div1 * s.params.mul1) } := rfl
@[simp] theorem stage1_c (n : Nat) (s : State) : (stage1 n s).c = s.c := rfl
@[simp] theorem stage1_x (n : Nat) (s : State) : (stage1 n s).x = s.x := rfl
@[simp] theorem stage1_ram (n : Nat) (s : State) : (stage1 n s).ram = s.ram := rfl
@[simp] theorem stage1_ramEpoch (n : Nat) (s : State) : (stage1 n s).ramEpoch = s.ramEpoch := rfl
@[simp] theorem stage1_env (n : Nat) (s : State) : (stage1 n s).env = s.env := rfl
@[simp] theorem stage1_out (n : Nat) (s : State) : (stage1 n s).out = s.out := rfl
@[simp] theorem stage1_agenda (n : Nat) (s : State) : (stage1 n s).agenda = s.agenda := rfl
@[simp] theorem stage1_draws (n : Nat) (s : State) : (stage1 n s).draws = s.draws := rfl
@[simp] theorem stage1_lags (n : Nat) (s : State) : (stage1 n s).lags = s.lags := rfl

@[simp] theorem badRequest_params (n : Nat) (s : State) : (badRequest n s).params = s.params := rfl
@[simp] theorem badRequest_p (n : Nat) (s : State) : (badRequest n s).p = s.p := rfl
@[simp] theorem badRequest_c (n : Nat) (s : State) : (badRequest n s).c = { s.c with diagReq := true } := rfl
@[simp] theorem badRequest_x (n : Nat) (s : State) : (badRequest n s).x = s.x := rfl
@[simp] theorem badRequest_ram (n : Nat) (s : State) : (badRequest n s).ram = s.ram := rfl
@[simp] theorem badRequest_ramEpoch (n : Nat) (s : State) : (badRequest n s).ramEpoch = s.ramEpoch := rfl
@[simp] theorem badRequest_env (n : Nat) (s : State) : (badRequest n s).env = s.env := rfl
@[simp] theorem badRequest_out (n : Nat) (s : State) :
    (badRequest n s).out = { s.out with answer := some (.silence n) } := rfl
@[simp] theorem badRequest_agenda (n : Nat) (s : State) : (badRequest n s).agenda = s.agenda := rfl
@[simp] theorem badRequest_draws (n : Nat) (s : State) : (badRequest n s).draws = s.draws := rfl
@[simp] theorem badRequest_lags (n : Nat) (s : State) : (badRequest n s).lags = s.lags := rfl

@[simp] theorem openSuccess_params (n : Nat) (s : State) : (openSuccess n s).params = s.params := rfl
@[simp] theorem openSuccess_p (n : Nat) (s : State) :
    (openSuccess n s).p = { s.p with
      writeIndex := 0, wrCnt := 0, wrGray := 0, capacity := BitVec.ofNat 11 n, cpuAcc := 0, audAcc := 0,
      trigCount := 0, dropCount := 0, fmRate := s.env.devRate, runP := true, phase := .opening } := rfl
@[simp] theorem openSuccess_c (n : Nat) (s : State) : (openSuccess n s).c = s.c := rfl
@[simp] theorem openSuccess_x (n : Nat) (s : State) :
    (openSuccess n s).x = { s.x with wrJump := decide (s.c.wrSeen ≠ 0) } := rfl
@[simp] theorem openSuccess_ram (n : Nat) (s : State) : (openSuccess n s).ram = s.ram := rfl
@[simp] theorem openSuccess_ramEpoch (n : Nat) (s : State) : (openSuccess n s).ramEpoch = s.ramEpoch := rfl
@[simp] theorem openSuccess_env (n : Nat) (s : State) : (openSuccess n s).env = s.env := rfl
@[simp] theorem openSuccess_out (n : Nat) (s : State) : (openSuccess n s).out = { s.out with fmInit := true } := rfl
@[simp] theorem openSuccess_agenda (n : Nat) (s : State) : (openSuccess n s).agenda = s.agenda := rfl
@[simp] theorem openSuccess_draws (n : Nat) (s : State) : (openSuccess n s).draws = s.draws := rfl
@[simp] theorem openSuccess_lags (n : Nat) (s : State) : (openSuccess n s).lags = s.lags := rfl

@[simp] theorem closeSequence_params (s : State) : (closeSequence s).params = s.params := rfl
@[simp] theorem closeSequence_p (s : State) :
    (closeSequence s).p = { s.p with runP := false, phase := .closing } := rfl
@[simp] theorem closeSequence_c (s : State) : (closeSequence s).c = s.c := rfl
@[simp] theorem closeSequence_x (s : State) : (closeSequence s).x = s.x := rfl
@[simp] theorem closeSequence_ram (s : State) : (closeSequence s).ram = s.ram := rfl
@[simp] theorem closeSequence_ramEpoch (s : State) : (closeSequence s).ramEpoch = s.ramEpoch := rfl
@[simp] theorem closeSequence_env (s : State) : (closeSequence s).env = s.env := rfl
@[simp] theorem closeSequence_out (s : State) : (closeSequence s).out = s.out := rfl
@[simp] theorem closeSequence_agenda (s : State) : (closeSequence s).agenda = s.agenda := rfl
@[simp] theorem closeSequence_draws (s : State) : (closeSequence s).draws = s.draws := rfl
@[simp] theorem closeSequence_lags (s : State) : (closeSequence s).lags = s.lags := rfl

@[simp] theorem openComplete_params (s : State) : (openComplete s).params = s.params := rfl
@[simp] theorem openComplete_p (s : State) :
    (openComplete s).p = { s.p with
      eng := .opened, phase := .idle, rsp := some { data := s.p.capacity.setWidth 32, code := .ok } } := rfl
@[simp] theorem openComplete_c (s : State) : (openComplete s).c = s.c := rfl
@[simp] theorem openComplete_x (s : State) : (openComplete s).x = s.x := rfl
@[simp] theorem openComplete_ram (s : State) : (openComplete s).ram = s.ram := rfl
@[simp] theorem openComplete_ramEpoch (s : State) : (openComplete s).ramEpoch = s.ramEpoch := rfl
@[simp] theorem openComplete_env (s : State) : (openComplete s).env = s.env := rfl
@[simp] theorem openComplete_out (s : State) : (openComplete s).out = s.out := rfl
@[simp] theorem openComplete_agenda (s : State) : (openComplete s).agenda = s.agenda := rfl
@[simp] theorem openComplete_draws (s : State) : (openComplete s).draws = s.draws := rfl
@[simp] theorem openComplete_lags (s : State) : (openComplete s).lags = s.lags := rfl

@[simp] theorem closeComplete_params (s : State) : (closeComplete s).params = s.params := rfl
@[simp] theorem closeComplete_p (s : State) :
    (closeComplete s).p =
      { s.p with
      writeIndex := 0, wrCnt := 0, wrGray := 0, eng := .closed, phase := .idle, rsp := some { data := 0, code := .ok } } := rfl
@[simp] theorem closeComplete_c (s : State) : (closeComplete s).c = s.c := rfl
@[simp] theorem closeComplete_x (s : State) :
    (closeComplete s).x = { s.x with wrJump := decide (s.c.wrSeen ≠ 0) } := rfl
@[simp] theorem closeComplete_ram (s : State) : (closeComplete s).ram = s.ram := rfl
@[simp] theorem closeComplete_ramEpoch (s : State) : (closeComplete s).ramEpoch = s.ramEpoch := rfl
@[simp] theorem closeComplete_env (s : State) : (closeComplete s).env = s.env := rfl
@[simp] theorem closeComplete_out (s : State) : (closeComplete s).out = s.out := rfl
@[simp] theorem closeComplete_agenda (s : State) : (closeComplete s).agenda = s.agenda := rfl
@[simp] theorem closeComplete_draws (s : State) : (closeComplete s).draws = s.draws := rfl
@[simp] theorem closeComplete_lags (s : State) : (closeComplete s).lags = s.lags := rfl

@[simp] theorem takeResponse_params (s : State) : (takeResponse s).params = s.params := rfl
@[simp] theorem takeResponse_p (s : State) : (takeResponse s).p = { s.p with rsp := none } := rfl
@[simp] theorem takeResponse_c (s : State) : (takeResponse s).c = s.c := rfl
@[simp] theorem takeResponse_x (s : State) : (takeResponse s).x = s.x := rfl
@[simp] theorem takeResponse_ram (s : State) : (takeResponse s).ram = s.ram := rfl
@[simp] theorem takeResponse_ramEpoch (s : State) : (takeResponse s).ramEpoch = s.ramEpoch := rfl
@[simp] theorem takeResponse_env (s : State) : (takeResponse s).env = s.env := rfl
@[simp] theorem takeResponse_out (s : State) : (takeResponse s).out = s.out := rfl
@[simp] theorem takeResponse_agenda (s : State) : (takeResponse s).agenda = s.agenda := rfl
@[simp] theorem takeResponse_draws (s : State) : (takeResponse s).draws = s.draws := rfl
@[simp] theorem takeResponse_lags (s : State) : (takeResponse s).lags = s.lags := rfl

@[simp] theorem syncRun_params (s : State) : (syncRun s).params = s.params := rfl
@[simp] theorem syncRun_p (s : State) : (syncRun s).p = s.p := rfl
@[simp] theorem syncRun_c (s : State) : (syncRun s).c = { s.c with runSeen := s.p.runP } := rfl
@[simp] theorem syncRun_x (s : State) : (syncRun s).x = s.x := rfl
@[simp] theorem syncRun_ram (s : State) : (syncRun s).ram = s.ram := rfl
@[simp] theorem syncRun_ramEpoch (s : State) : (syncRun s).ramEpoch = s.ramEpoch := rfl
@[simp] theorem syncRun_env (s : State) : (syncRun s).env = s.env := rfl
@[simp] theorem syncRun_out (s : State) : (syncRun s).out = s.out := rfl
@[simp] theorem syncRun_agenda (s : State) : (syncRun s).agenda = s.agenda := rfl
@[simp] theorem syncRun_draws (s : State) : (syncRun s).draws = s.draws := rfl
@[simp] theorem syncRun_lags (s : State) : (syncRun s).lags = s.lags := rfl

@[simp] theorem syncAck_params (s : State) : (syncAck s).params = s.params := rfl
@[simp] theorem syncAck_p (s : State) : (syncAck s).p = { s.p with ackSeen := s.c.ackC } := rfl
@[simp] theorem syncAck_c (s : State) : (syncAck s).c = s.c := rfl
@[simp] theorem syncAck_x (s : State) : (syncAck s).x = s.x := rfl
@[simp] theorem syncAck_ram (s : State) : (syncAck s).ram = s.ram := rfl
@[simp] theorem syncAck_ramEpoch (s : State) : (syncAck s).ramEpoch = s.ramEpoch := rfl
@[simp] theorem syncAck_env (s : State) : (syncAck s).env = s.env := rfl
@[simp] theorem syncAck_out (s : State) : (syncAck s).out = s.out := rfl
@[simp] theorem syncAck_agenda (s : State) : (syncAck s).agenda = s.agenda := rfl
@[simp] theorem syncAck_draws (s : State) : (syncAck s).draws = s.draws := rfl
@[simp] theorem syncAck_lags (s : State) : (syncAck s).lags = s.lags := rfl

@[simp] theorem syncDiag_params (s : State) : (syncDiag s).params = s.params := rfl
@[simp] theorem syncDiag_p (s : State) : (syncDiag s).p = { s.p with diagSeen := s.c.diagReq } := rfl
@[simp] theorem syncDiag_c (s : State) : (syncDiag s).c = s.c := rfl
@[simp] theorem syncDiag_x (s : State) : (syncDiag s).x = s.x := rfl
@[simp] theorem syncDiag_ram (s : State) : (syncDiag s).ram = s.ram := rfl
@[simp] theorem syncDiag_ramEpoch (s : State) : (syncDiag s).ramEpoch = s.ramEpoch := rfl
@[simp] theorem syncDiag_env (s : State) : (syncDiag s).env = s.env := rfl
@[simp] theorem syncDiag_out (s : State) : (syncDiag s).out = s.out := rfl
@[simp] theorem syncDiag_agenda (s : State) : (syncDiag s).agenda = s.agenda := rfl
@[simp] theorem syncDiag_draws (s : State) : (syncDiag s).draws = s.draws := rfl
@[simp] theorem syncDiag_lags (s : State) : (syncDiag s).lags = s.lags := rfl

@[simp] theorem drivePlatform_params (b : Bool) (r : Word) (s : State) :
    (drivePlatform b r s).params = s.params := rfl
@[simp] theorem drivePlatform_p (b : Bool) (r : Word) (s : State) : (drivePlatform b r s).p = s.p := rfl
@[simp] theorem drivePlatform_c (b : Bool) (r : Word) (s : State) : (drivePlatform b r s).c = s.c := rfl
@[simp] theorem drivePlatform_x (b : Bool) (r : Word) (s : State) : (drivePlatform b r s).x = s.x := rfl
@[simp] theorem drivePlatform_ram (b : Bool) (r : Word) (s : State) : (drivePlatform b r s).ram = s.ram := rfl
@[simp] theorem drivePlatform_ramEpoch (b : Bool) (r : Word) (s : State) :
    (drivePlatform b r s).ramEpoch = s.ramEpoch := rfl
@[simp] theorem drivePlatform_env (b : Bool) (r : Word) (s : State) :
    (drivePlatform b r s).env = { s.env with devOk := b, devRate := r } := rfl
@[simp] theorem drivePlatform_out (b : Bool) (r : Word) (s : State) : (drivePlatform b r s).out = s.out := rfl
@[simp] theorem drivePlatform_agenda (b : Bool) (r : Word) (s : State) :
    (drivePlatform b r s).agenda = s.agenda := rfl
@[simp] theorem drivePlatform_draws (b : Bool) (r : Word) (s : State) : (drivePlatform b r s).draws = s.draws := rfl
@[simp] theorem drivePlatform_lags (b : Bool) (r : Word) (s : State) : (drivePlatform b r s).lags = s.lags := rfl

@[simp] theorem scheduled_params (s : State) : s.scheduled.params = s.params := rfl
@[simp] theorem scheduled_p (s : State) : s.scheduled.p = s.p := rfl
@[simp] theorem scheduled_c (s : State) : s.scheduled.c = s.c := rfl
@[simp] theorem scheduled_x (s : State) : s.scheduled.x = s.x := rfl
@[simp] theorem scheduled_ram (s : State) : s.scheduled.ram = s.ram := rfl
@[simp] theorem scheduled_ramEpoch (s : State) : s.scheduled.ramEpoch = s.ramEpoch := rfl
@[simp] theorem scheduled_env (s : State) : s.scheduled.env = s.env := rfl
@[simp] theorem scheduled_out (s : State) : s.scheduled.out = Outputs.quiet := rfl
@[simp] theorem scheduled_draws (s : State) : s.scheduled.draws = s.draws + 1 := rfl
@[simp] theorem scheduled_lags (s : State) : s.scheduled.lags = nextLags s := rfl

@[simp] theorem cutStream_params (n : Option Nat) (s : State) : (cutStream n s).params = s.params := by
  simp only [cutStream]; split <;> [rfl; split <;> rfl]
@[simp] theorem cutStream_p (n : Option Nat) (s : State) : (cutStream n s).p = s.p := by
  simp only [cutStream]; split <;> [rfl; split <;> rfl]
@[simp] theorem cutStream_ramEpoch (n : Option Nat) (s : State) : (cutStream n s).ramEpoch = s.ramEpoch := by
  simp only [cutStream]; split <;> [rfl; split <;> rfl]
@[simp] theorem cutStream_agenda (n : Option Nat) (s : State) : (cutStream n s).agenda = s.agenda := by
  simp only [cutStream]; split <;> [rfl; split <;> rfl]
@[simp] theorem cutStream_draws (n : Option Nat) (s : State) : (cutStream n s).draws = s.draws := by
  simp only [cutStream]; split <;> [rfl; split <;> rfl]
@[simp] theorem cutStream_lags (n : Option Nat) (s : State) : (cutStream n s).lags = s.lags := by
  simp only [cutStream]; split <;> [rfl; split <;> rfl]

@[simp] theorem cutRender_params (n : Option (Nat × Nat × Nat)) (s : State) : (cutRender n s).params = s.params := by
  simp only [cutRender]; split <;> [rfl; split <;> rfl]
@[simp] theorem cutRender_ramEpoch (n : Option (Nat × Nat × Nat)) (s : State) :
    (cutRender n s).ramEpoch = s.ramEpoch := by
  simp only [cutRender]; split <;> [rfl; split <;> rfl]
@[simp] theorem cutRender_agenda (n : Option (Nat × Nat × Nat)) (s : State) : (cutRender n s).agenda = s.agenda := by
  simp only [cutRender]; split <;> [rfl; split <;> rfl]
@[simp] theorem cutRender_draws (n : Option (Nat × Nat × Nat)) (s : State) : (cutRender n s).draws = s.draws := by
  simp only [cutRender]; split <;> [rfl; split <;> rfl]
@[simp] theorem cutRender_lags (n : Option (Nat × Nat × Nat)) (s : State) : (cutRender n s).lags = s.lags := by
  simp only [cutRender]; split <;> [rfl; split <;> rfl]

@[simp] theorem stepReset_params (k : Cut) (s : State) : (stepReset k s).params = s.params := by simp [stepReset]
@[simp] theorem stepReset_p (k : Cut) (s : State) : (stepReset k s).p = Producer.reset := rfl
@[simp] theorem stepReset_c (k : Cut) (s : State) : (stepReset k s).c = Consumer.reset := rfl
@[simp] theorem stepReset_x (k : Cut) (s : State) : (stepReset k s).x = Crossing.reset := rfl
@[simp] theorem stepReset_ram (k : Cut) (s : State) : (stepReset k s).ram = [] := rfl
@[simp] theorem stepReset_ramEpoch (k : Cut) (s : State) : (stepReset k s).ramEpoch = s.ramEpoch + 1 := by
  simp [stepReset]
@[simp] theorem stepReset_agenda (k : Cut) (s : State) : (stepReset k s).agenda = s.agenda := by simp [stepReset]
@[simp] theorem stepReset_draws (k : Cut) (s : State) : (stepReset k s).draws = s.draws := by simp [stepReset]
@[simp] theorem stepReset_lags (k : Cut) (s : State) : (stepReset k s).lags = s.lags := by simp [stepReset]

/-- A reset that finds nothing in the middle is the registers' reset, with quiet outputs. -/
theorem stepReset_nothing (s : State) : stepReset Cut.nothing s = { s.afterReset with out := Outputs.quiet } := rfl

end Sys2Proof.Machine
end

