-- ==== Sys2Proof/Laws/Ops.lean ====
section
/-! SUPPORT. What each shared operation and each step can do, said once: the inversion lemma of every meaning and of every step of R10, and the arithmetic of pointers and buffers they rest on. -/

namespace Sys2Proof.Machine

open Sys2Proof

/-! ### Pointers -/

theorem ptrDist_eq (a b : Ptr) : ptrDist a b = (2048 - b.toNat + a.toNat) % 2048 := by
  simp [ptrDist, BitVec.toNat_sub]

theorem ptrDist_lt (a b : Ptr) : ptrDist a b < 2048 := (a - b).isLt

@[simp] theorem ptrDist_self (a : Ptr) : ptrDist a a = 0 := by simp [ptrDist]

theorem forward_toNat (seen x : Ptr) (n : Nat) :
    (forward seen x n).toNat = (seen.toNat + min n (ptrDist x seen)) % 2048 := by
  have := ptrDist_lt x seen
  simp [forward, BitVec.toNat_add]

/-- The index increment is the successor modulo the capacity (R119), for an index in range. -/
theorem nextIndex_toNat {x c : Ptr} (hx : x.toNat < c.toNat) : (nextIndex x c).toNat = (x.toNat + 1) % c.toNat := by
  have := c.isLt
  have hx1 : (x + 1).toNat = x.toNat + 1 := by
    simp only [BitVec.toNat_add]
    exact Nat.mod_eq_of_lt (by change x.toNat + 1 < 2048; omega)
  simp only [nextIndex]
  split
  · rename_i h
    rw [← h, hx1, Nat.mod_self]; rfl
  · rename_i h
    have hne : x.toNat + 1 ≠ c.toNat := fun e => h (BitVec.eq_of_toNat_eq (by rw [hx1, e]))
    rw [hx1, Nat.mod_eq_of_lt (by omega)]

/-! ### Frame buffers -/

theorem mixFrames_length {n : Nat} :
    ∀ {a b c : List Word}, a.length = n → b.length = n → c.length = n → (mixFrames a b c).length = n := by
  induction n with
  | zero => intro a b c ha _ _; simp [List.eq_nil_of_length_eq_zero ha, mixFrames]
  | succ n ih =>
    intro a b c ha hb hc
    match a, b, c, ha, hb, hc with
    | x :: xs, y :: ys, z :: zs, ha, hb, hc =>
      simp only [List.length_cons, Nat.add_right_cancel_iff] at ha hb hc
      simp [mixFrames, ih ha hb hc]

/-- A trigger whose sources are ready mixes a whole frame buffer. -/
theorem mixedBuffer_length {s : State} (h : sourcesReady s = true) : (mixedBuffer s).length = s.params.fblen := by
  simp only [sourcesReady, Bool.and_eq_true, decide_eq_true_eq] at h
  exact mixFrames_length (by simp [h.1.1]) (by simp [h.1.2]) (by simp [h.2])

/-- Every frame of a slot the RAM holds has an address in it (R57, R58). -/
theorem slot_in_ram {q : Params} {slot : Nat} (h : slot < q.maxCapImpl) :
    frameAddr q slot 0 + q.fblen ≤ q.ramWords := by
  have := Nat.mul_le_mul_right q.fblen (show slot + 1 ≤ q.maxCapImpl from h)
  rw [Nat.add_mul] at this
  simp only [frameAddr, Params.ramWords]; omega

/-- Two frames of the RAM are at the same address only if they are the same frame of the same slot (R58). -/
theorem frameAddr_inj {q : Params} {a b i j : Nat} (hi : i < q.fblen) (hj : j < q.fblen)
    (h : frameAddr q a i = frameAddr q b j) : a = b ∧ i = j := by
  simp only [frameAddr] at h
  have hpos : 0 < q.fblen := by omega
  have ha : (a * q.fblen + i) / q.fblen = a := by
    rw [Nat.mul_comm, Nat.mul_add_div hpos, Nat.div_eq_of_lt hi, Nat.add_zero]
  have hb : (b * q.fblen + j) / q.fblen = b := by
    rw [Nat.mul_comm, Nat.mul_add_div hpos, Nat.div_eq_of_lt hj, Nat.add_zero]
  have hab : a = b := by rw [← ha, ← hb, h]
  subst hab
  exact ⟨rfl, by omega⟩

/-! ### Instructions -/

theorem execOpen_cases {noDev : Bool} {req : BitVec 24} {s t : State} (h : execOpen noDev req s = .next t) :
    (s.p.eng = .fault ∧ t = s.respond 0 .faulted) ∨
    ((s.p.eng = .opened ∨ (s.p.eng ≠ .fault ∧ s.p.disabled = true)) ∧ t = s.respond 0 .ignored) ∨
    ((s.p.eng = .uninit ∨ s.p.eng = .closed) ∧ s.p.disabled = false ∧
      ((noDev = true ∧ t = State.respond { s with p.disabled := true } 0 .ok) ∨
       (noDev = false ∧ s.params.maxCapImpl < clampCap (reqOf req) ∧ t = enterFault .alloc s) ∨
       (noDev = false ∧ clampCap (reqOf req) ≤ s.params.maxCapImpl ∧ s.env.devOk = false ∧ t = enterFault .dev s) ∨
       (noDev = false ∧ clampCap (reqOf req) ≤ s.params.maxCapImpl ∧ s.env.devOk = true ∧
        t = openSuccess (clampCap (reqOf req)) s))) := by
  simp only [execOpen, done] at h
  have shut : ¬ s.p.eng = .fault → ¬ (s.p.eng = .opened ∨ s.p.disabled = true) →
      (s.p.eng = .uninit ∨ s.p.eng = .closed) ∧ s.p.disabled = false := by
    intro h1 h2
    cases he : s.p.eng <;> simp_all
  split at h
  · cases h; exact .inl ⟨‹_›, rfl⟩
  split at h
  · cases h; exact .inr (.inl ⟨by tauto, rfl⟩)
  have hs := shut ‹_› ‹_›
  split at h
  · cases h; exact .inr (.inr ⟨hs.1, hs.2, .inl ⟨‹_›, rfl⟩⟩)
  have hn : noDev = false := by simpa using ‹¬ noDev = true›
  split at h
  · cases h; exact .inr (.inr ⟨hs.1, hs.2, .inr (.inl ⟨hn, ‹_›, rfl⟩)⟩)
  have hc : clampCap (reqOf req) ≤ s.params.maxCapImpl := Nat.not_lt.1 ‹_›
  split at h
  · cases h; exact .inr (.inr ⟨hs.1, hs.2, .inr (.inr (.inl ⟨hn, hc, ‹_›, rfl⟩))⟩)
  · cases h
    exact .inr (.inr ⟨hs.1, hs.2, .inr (.inr (.inr ⟨hn, hc, by simpa using ‹¬ s.env.devOk = false›, rfl⟩))⟩)

theorem execClose_cases {s t : State} (h : execClose s = .next t) :
    (s.p.eng = .fault ∧ t = s.respond 0 .faulted) ∨
    (s.p.eng ≠ .fault ∧ s.p.eng ≠ .opened ∧ t = s.respond 0 .ok) ∨
    (s.p.eng = .opened ∧ t = closeSequence s) := by
  simp only [execClose, done] at h
  split at h
  · cases h; exact .inl ⟨‹_›, rfl⟩
  split at h
  · cases h; exact .inr (.inl ⟨‹_›, ‹_›, rfl⟩)
  · cases h; exact .inr (.inr ⟨not_not.1 ‹_›, rfl⟩)

theorem execAdvance_cases {cycles : BitVec 28} {s t : State} (h : execAdvance cycles s = .next t) :
    (s.p.eng = .fault ∧ t = s.respond 0 .faulted) ∨
    (s.p.eng ≠ .fault ∧ s.p.eng ≠ .opened ∧ t = s.respond 0 .ok) ∨
    (s.p.eng = .opened ∧ t = { stage1 (cyclesOf cycles) s with p.advTrigs := 0, p.phase := .advancing }) := by
  simp only [execAdvance, done] at h
  split at h
  · cases h; exact .inl ⟨‹_›, rfl⟩
  split at h
  · cases h; exact .inr (.inl ⟨‹_›, ‹_›, rfl⟩)
  · cases h; exact .inr (.inr ⟨not_not.1 ‹_›, rfl⟩)

theorem execCsrRead_cases {idx : BitVec 8} {s t : State} (h : execCsrRead idx s = .next t) :
    (∃ v, csrValue idx s = some v ∧ t = s.respond v .ok) ∨ (csrValue idx s = none ∧ t = takeIllegal s) := by
  simp only [execCsrRead, done] at h
  split at h
  · cases h; exact .inl ⟨_, ‹_›, rfl⟩
  · cases h; exact .inr ⟨‹_›, rfl⟩

theorem consume_data {s t : State} {ws : List Word} (h : consume s = .data ws t) :
    s.countC ≠ 0 ∧ t = release s ∧
    readFrames s.params.ramWords s.ram s.ramEpoch (frameAddr s.params s.c.readIndex.toNat 0) s.params.fblen = .ok ws := by
  simp only [consume] at h
  split at h
  · cases h
  · split at h
    · cases h; exact ⟨‹_›, rfl, ‹_›⟩
    · cases h

/-- CONSUME of a slot inside the RAM returns the slot's words and releases it. -/
theorem consume_slot {s : State} (hc : s.countC ≠ 0) (hs : s.c.readIndex.toNat < s.params.maxCapImpl) :
    consume s = .data (s.slotFrames s.c.readIndex.toNat) (release s) := by
  have hr := readFrames_eq s.params.ramWords s.ram s.ramEpoch s.params.fblen _ (slot_in_ram hs)
  simp only [consume, if_neg hc, hr]
  simp [State.slotFrames, State.ramRead, frameAddr]

theorem serveRequest_cases {s t : State} (h : serveRequest s = .next t) :
    ((s.c.ackC = false ∨ s.countC = 0) ∧ t = s.emit (.silence s.params.fblen)) ∨
    (s.c.ackC = true ∧ s.countC ≠ 0 ∧ ∃ ws,
      readFrames s.params.ramWords s.ram s.ramEpoch (frameAddr s.params s.c.readIndex.toNat 0) s.params.fblen = .ok ws ∧
      t = (release s).emit (.buffer ws)) := by
  simp only [serveRequest] at h
  split at h
  · cases h; exact .inl ⟨.inl ‹_›, rfl⟩
  have ha : s.c.ackC = true := by simpa using ‹¬ s.c.ackC = false›
  split at h
  · rename_i he
    cases h
    refine .inl ⟨.inr ?_, rfl⟩
    simp only [consume] at he
    split at he
    · assumption
    · split at he <;> cases he
  · cases h
    obtain ⟨hc, rfl, hr⟩ := consume_data ‹_›
    exact .inr ⟨ha, hc, _, hr, rfl⟩
  · cases h

theorem execSinkReq_cases {len : BitVec 28} {s t : State} (h : execSinkReq len s = .next t) :
    (lenOf len ≠ s.params.fblen ∧ t = badRequest (lenOf len) s) ∨
    (lenOf len = s.params.fblen ∧ serveRequest s = .next t) := by
  simp only [execSinkReq] at h
  split at h
  · cases h; exact .inl ⟨‹_›, rfl⟩
  · exact .inr ⟨not_not.1 ‹_›, h⟩

/-! ### Steps -/

theorem trigger_cases {s t : State} (h : trigger s = .ok t) :
    (tryReserve s = true ∧ ∃ m,
      writeFrames s.params.ramWords s.ram (frameAddr s.params s.p.writeIndex.toNat 0) (mixedBuffer s) = .ok m ∧
      t = countTrigger (publish { renderSources s with ram := m })) ∨
    (tryReserve s = false ∧ t = countTrigger (dropBuffer (renderSources s))) := by
  simp only [trigger] at h
  split at h
  · split at h
    · cases h; exact .inl ⟨‹_›, _, ‹_›, rfl⟩
    · cases h
  · cases h; exact .inr ⟨by simpa using ‹¬ tryReserve s = true›, rfl⟩

theorem stepTrigger_cases {s t : State} (h : stepTrigger s = .next t) :
    (triggerDue s = true ∧ sourcesReady s = true ∧ ∃ u, trigger (takeThresh s) = .ok u ∧
      t = { u with p.advTrigs := u.p.advTrigs + 1 }) ∨
    ((triggerDue s = false ∨ sourcesReady s = false) ∧ t = s) := by
  simp only [stepTrigger] at h
  split at h
  · rename_i hg
    simp only [Bool.and_eq_true] at hg
    split at h
    · cases h; exact .inl ⟨hg.1, hg.2, _, ‹_›, rfl⟩
    · cases h
  · rename_i hg
    cases h
    refine .inr ⟨?_, rfl⟩
    revert hg
    cases triggerDue s <;> cases sourcesReady s <;> simp

theorem stepFinishAdvance_cases (s : State) :
    (s.p.phase = .advancing ∧ s.p.audAcc.toNat < s.params.thresh ∧
      stepFinishAdvance s = State.respond { s with p.phase := .idle } s.p.advTrigs .ok) ∨
    stepFinishAdvance s = s := by
  simp only [stepFinishAdvance]
  split
  · rename_i h; exact .inl ⟨h.1, h.2, rfl⟩
  · exact .inr rfl

theorem stepFinishHandshake_cases (s : State) :
    (s.p.phase = .opening ∧ s.p.ackSeen = true ∧ stepFinishHandshake s = openComplete s) ∨
    (s.p.phase = .closing ∧ s.p.ackSeen = false ∧ s.p.rdSeen = 0 ∧ stepFinishHandshake s = closeComplete s) ∨
    stepFinishHandshake s = s := by
  simp only [stepFinishHandshake]
  cases hp : s.p.phase
  · exact .inr (.inr rfl)
  · exact .inr (.inr rfl)
  · by_cases h : s.p.ackSeen = true
    · exact .inl ⟨rfl, h, by simp [h]⟩
    · exact .inr (.inr (by simp [h]))
  · by_cases h : s.p.ackSeen = false ∧ s.p.rdSeen = 0
    · exact .inr (.inl ⟨rfl, h.1, h.2, if_pos h⟩)
    · exact .inr (.inr (if_neg h))

theorem stepStart_cases (s : State) :
    (s.c.ackC = false ∧ s.c.runSeen = true ∧ s.c.wrSeen = 0 ∧ stepStart s = { s with c.ackC := true }) ∨
    stepStart s = s := by
  simp only [stepStart]
  split
  · rename_i h; exact .inl ⟨h.1, h.2.1, h.2.2, rfl⟩
  · exact .inr rfl

theorem stepStop_cases (s : State) :
    (s.c.ackC = true ∧ s.c.runSeen = false ∧ stepStop s = { s.resetReadPointers with c.ackC := false }) ∨
    stepStop s = s := by
  simp only [stepStop]
  split
  · rename_i h; exact .inl ⟨h.1, h.2, rfl⟩
  · exact .inr rfl

theorem stepAccept_cases {s t : State} (h : stepAccept s = .next t) :
    t = s ∨ (s.cmdReady = true ∧ ∃ w, s.env.cmd = some w ∧
      ((∃ i, decodeCommand w = .instr i ∧ exec i { s with env.cmd := none } = .next t) ∨
       (∃ r, decodeCommand w = .reject r ∧ t = takeIllegal { s with env.cmd := none }))) := by
  simp only [stepAccept] at h
  split at h
  · cases h; exact .inl rfl
  split at h
  · split at h
    · exact .inr ⟨‹_›, _, ‹_›, .inl ⟨_, ‹_›, h⟩⟩
    · cases h; exact .inr ⟨‹_›, _, ‹_›, .inr ⟨_, ‹_›, rfl⟩⟩
  · cases h; exact .inl rfl

theorem stepSink_cases {s t : State} (h : stepSink s = .next t) :
    (s.env.req = none ∧ t = s) ∨ (∃ w, s.env.req = some w ∧
      ((∃ i, decodeRequest w = .instr i ∧ exec i { s with env.req := none } = .next t) ∨
       (∃ r, decodeRequest w = .reject r ∧
         t = badRequest (lenOf (payloadField w)) { s with env.req := none }))) := by
  simp only [stepSink] at h
  split at h
  · cases h; exact .inl ⟨‹_›, rfl⟩
  split at h
  · exact .inr ⟨_, ‹_›, .inl ⟨_, ‹_›, h⟩⟩
  · cases h; exact .inr ⟨_, ‹_›, .inr ⟨_, ‹_›, rfl⟩⟩

theorem driveCommand_cases {cmd : Option Word} {s t : State} (h : driveCommand cmd s = .next t) :
    t = s ∨ t = { s with env.cmd := cmd } := by
  simp only [driveCommand] at h
  split at h
  · cases h; exact .inr rfl
  · split at h
    · cases h; exact .inl rfl
    · cases h

theorem driveRequest_cases {req : Option Word} {s t : State} (h : driveRequest req s = .next t) :
    t = s ∨ t = { s with env.req := req } := by
  simp only [driveRequest] at h
  split at h
  · cases h; exact .inr rfl
  · split at h
    · cases h; exact .inl rfl
    · cases h

/-- The answer to a presented request is what the sink step of it shows. -/
theorem answerNow_eq {s t : State} {w : Word} (hr : s.env.req = some w) (h : stepSink s = .next t) :
    s.answerNow = t.out.answer := by
  simp [State.answerNow, hr, h]

theorem cutStream_cases (n : Option Nat) (s : State) :
    ((n = none ∨ s.answerNow = none) ∧ cutStream n s = s) ∨
    (∃ k a, n = some k ∧ s.answerNow = some a ∧
      cutStream n s = State.emit { s with env.req := none } (a.cutAfter k)) := by
  simp only [cutStream]
  split
  · exact .inl ⟨.inl rfl, rfl⟩
  · split
    · exact .inl ⟨.inr ‹_›, rfl⟩
    · exact .inr ⟨_, _, rfl, ‹_›, rfl⟩

theorem cutRender_cases (n : Option (Nat × Nat × Nat)) (s : State) :
    ((n = none ∨ triggerDue s = false) ∧ cutRender n s = s) ∨
    (∃ a b c, n = some (a, b, c) ∧ triggerDue s = true ∧
      cutRender n s = { s with
        env.psg := s.env.psg.drop (min a s.params.fblen), env.pcm := s.env.pcm.drop (min b s.params.fblen),
        env.fm := s.env.fm.drop (min c s.params.fblen), out.srcStart := true }) := by
  simp only [cutRender]
  split
  · exact .inl ⟨.inl rfl, rfl⟩
  · split
    · exact .inr ⟨_, _, _, rfl, ‹_›, rfl⟩
    · exact .inl ⟨.inr (by simpa using ‹¬ triggerDue s = true›), rfl⟩

/-! ### The schedule -/

/-- Two states whose parameters, agenda, count of steps and lags are the same: what no agent, synchronizer or act of the
environment touches. -/
structure SameSchedule (s t : State) : Prop where
  params : t.params = s.params
  agenda : t.agenda = s.agenda
  draws  : t.draws = s.draws
  lags   : t.lags = s.lags

theorem exec_keeps_schedule {i : Instr} {s t : State} (h : exec i s = .next t) : SameSchedule s t := by
  cases i with
  | nop => cases h; exact ⟨rfl, rfl, rfl, rfl⟩
  | openEngine noDev req =>
    obtain ⟨-, rfl⟩ | ⟨-, rfl⟩ | ⟨-, -, ⟨-, rfl⟩ | ⟨-, -, rfl⟩ | ⟨-, -, -, rfl⟩ | ⟨-, -, -, rfl⟩⟩ :=
      execOpen_cases h <;> exact ⟨rfl, rfl, rfl, rfl⟩
  | closeEngine =>
    obtain ⟨-, rfl⟩ | ⟨-, -, rfl⟩ | ⟨-, rfl⟩ := execClose_cases h <;> exact ⟨rfl, rfl, rfl, rfl⟩
  | advance cycles =>
    obtain ⟨-, rfl⟩ | ⟨-, -, rfl⟩ | ⟨-, rfl⟩ := execAdvance_cases h <;> exact ⟨rfl, rfl, rfl, rfl⟩
  | csrRead idx =>
    obtain ⟨v, -, rfl⟩ | ⟨-, rfl⟩ := execCsrRead_cases h <;> exact ⟨rfl, rfl, rfl, rfl⟩
  | sinkReq len =>
    obtain ⟨-, rfl⟩ | ⟨-, h⟩ := execSinkReq_cases h
    · exact ⟨rfl, rfl, rfl, rfl⟩
    · obtain ⟨-, rfl⟩ | ⟨-, -, ws, -, rfl⟩ := serveRequest_cases h <;> exact ⟨rfl, rfl, rfl, rfl⟩

theorem trigger_keeps_schedule {s t : State} (h : stepTrigger s = .next t) : SameSchedule s t := by
  obtain ⟨-, -, u, hu, rfl⟩ | ⟨-, rfl⟩ := stepTrigger_cases h
  · obtain ⟨-, m, -, rfl⟩ | ⟨-, rfl⟩ := trigger_cases hu <;> exact ⟨rfl, rfl, rfl, rfl⟩
  · exact ⟨rfl, rfl, rfl, rfl⟩

/-- No move touches the schedule: only the choice of the next step does. -/
theorem perform_keeps_schedule {m : Move} {s t : State} (h : perform m s = .next t) : SameSchedule s t := by
  cases m with
  | hostDrive cmd => obtain rfl | rfl := driveCommand_cases h <;> exact ⟨rfl, rfl, rfl, rfl⟩
  | hostTake => cases h; exact ⟨rfl, rfl, rfl, rfl⟩
  | deviceDrive req => obtain rfl | rfl := driveRequest_cases h <;> exact ⟨rfl, rfl, rfl, rfl⟩
  | platform devOk devRate => cases h; exact ⟨rfl, rfl, rfl, rfl⟩
  | sourceDeliver k frames => cases h; cases k <;> exact ⟨rfl, rfl, rfl, rfl⟩
  | accept =>
    obtain rfl | ⟨-, w, -, ⟨i, -, h⟩ | ⟨e, -, rfl⟩⟩ := stepAccept_cases h
    · exact ⟨rfl, rfl, rfl, rfl⟩
    · have k := exec_keeps_schedule h; exact ⟨k.params, k.agenda, k.draws, k.lags⟩
    · exact ⟨rfl, rfl, rfl, rfl⟩
  | trigger => exact trigger_keeps_schedule h
  | finishAdvance =>
    cases h
    obtain ⟨-, -, e⟩ | e := stepFinishAdvance_cases s <;> rw [e] <;> exact ⟨rfl, rfl, rfl, rfl⟩
  | finishHandshake =>
    cases h
    obtain ⟨-, -, e⟩ | ⟨-, -, -, e⟩ | e := stepFinishHandshake_cases s <;> rw [e] <;> exact ⟨rfl, rfl, rfl, rfl⟩
  | sink =>
    obtain ⟨-, rfl⟩ | ⟨w, -, ⟨i, -, h⟩ | ⟨e, -, rfl⟩⟩ := stepSink_cases h
    · exact ⟨rfl, rfl, rfl, rfl⟩
    · have k := exec_keeps_schedule h; exact ⟨k.params, k.agenda, k.draws, k.lags⟩
    · exact ⟨rfl, rfl, rfl, rfl⟩
  | start =>
    cases h
    obtain ⟨-, -, -, e⟩ | e := stepStart_cases s <;> rw [e] <;> exact ⟨rfl, rfl, rfl, rfl⟩
  | stop =>
    cases h
    obtain ⟨-, -, e⟩ | e := stepStop_cases s <;> rw [e] <;> exact ⟨rfl, rfl, rfl, rfl⟩
  | syncRd n => cases h; simp only [syncRd]; split <;> [skip; split] <;> exact ⟨rfl, rfl, rfl, rfl⟩
  | syncWr n => cases h; simp only [syncWr]; split <;> [skip; split] <;> exact ⟨rfl, rfl, rfl, rfl⟩
  | syncRun => cases h; exact ⟨rfl, rfl, rfl, rfl⟩
  | syncAck => cases h; exact ⟨rfl, rfl, rfl, rfl⟩
  | syncDiag => cases h; exact ⟨rfl, rfl, rfl, rfl⟩
  | reset cut => cases h; exact ⟨by simp, by simp, by simp, by simp⟩
  | crossingViolation => cases h
  | ramOrderViolation => cases h

/-! ### Fairness -/

@[simp] theorem lagOf_nextLags (v : View) (s : State) : lagOf v (nextLags s) = nextLag v s := by cases v <;> rfl

theorem behind_iff (v : View) (s : State) : behind v s = true ↔ viewSeen v s ≠ viewSource v s := by simp [behind]

/-- A view that is behind the value its source had when it was last looked at has one step less left. -/
theorem nextLag_same {v : View} {s : State} {l : Lag} (hb : viewSeen v s ≠ viewSource v s)
    (hl : lagOf v s.lags = some l) (hs : l.source = viewSource v s) :
    nextLag v s = some { l with left := l.left - 1 } := by
  simp [nextLag, behind, hb, hl, hs]

/-- The lag of a view that is behind names the present value of its source. -/
theorem nextLag_behind {v : View} {s : State} (hb : viewSeen v s ≠ viewSource v s) :
    ∃ l, nextLag v s = some l ∧ l.source = viewSource v s := by
  simp only [nextLag, behind, hb, ne_eq, not_false_eq_true, decide_true, if_true]
  split
  · split
    · exact ⟨_, rfl, ‹_›⟩
    · exact ⟨_, rfl, rfl⟩
  · exact ⟨_, rfl, rfl⟩

theorem isOverdue_iff (v : View) (s : State) :
    isOverdue v s = true ↔ viewSeen v s ≠ viewSource v s ∧ ∃ l, lagOf v s.lags = some l ∧ l.source = viewSource v s ∧
      l.left = 0 := by
  simp only [isOverdue, Bool.and_eq_true, behind_iff, ne_eq]
  cases lagOf v s.lags <;> simp

theorem overdue_some {v : View} {s : State} (h : s.overdue = some v) : isOverdue v s = true := by
  simpa using List.find?_some h

/-- While some view's move is due, the next step is one of them. -/
theorem overdue_of_isOverdue {v : View} {s : State} (h : isOverdue v s = true) : ∃ u, s.overdue = some u := by
  have : s.overdue.isSome = true := by
    rw [State.overdue, List.find?_isSome]
    exact ⟨v, by cases v <;> simp [views], h⟩
  exact Option.isSome_iff_exists.1 this

/-- No move is due where no view has been found behind its source. -/
theorem overdue_of_reset {s : State} (h : s.lags = Lags.reset) : s.overdue = none := by
  simp only [State.overdue, List.find?_eq_none]
  intro v _
  cases v <;> simp [isOverdue, h, lagOf, Lags.reset]

theorem nextMove_overdue {v : View} {s : State} (h : s.overdue = some v) : s.nextMove = catchUp v := by
  simp [State.nextMove, h]

/-- A step that answers a next state has a legal parameter set and performs the scheduled step. -/
theorem step_next {s t : State} (h : step s = .next t) :
    s.params.legal = true ∧ perform s.nextMove s.scheduled = .next t := by
  simp only [step] at h
  split at h
  · exact ⟨‹_›, h⟩
  · cases h

/-! ### Decoding -/

/-- The command port never gives a sink request (R80). -/
theorem decodeCommand_port {w : Word} {i : Instr} (h : decodeCommand w = .instr i) : i.port = .command := by
  simp only [decodeCommand] at h
  split_ifs at h <;> cases h <;> rfl

/-- The consumer port gives only sink requests (R80). -/
theorem decodeRequest_sink {w : Word} {i : Instr} (h : decodeRequest w = .instr i) :
    i = .sinkReq (payloadField w) := by
  simp only [decodeRequest] at h
  split at h <;> cases h
  rfl

end Sys2Proof.Machine
end

