-- ==== Sys2Proof/Laws/PerInstr.lean ====
section
/-! SUPPORT. The bits of a word made of an opcode and a payload, and statements about every instruction as a term, one lemma a constructor: the OP field of its word (R79, R80). -/

namespace Sys2Proof

/-- The bits of a word put together from OP and payload (R79). -/
theorem getLsbD_word (op : BitVec 4) (payload : BitVec 28) (j : Nat) :
    BitVec.getLsbD (w := 32) (op ++ payload) j = if j < 28 then payload.getLsbD j else op.getLsbD (j - 28) :=
  BitVec.getLsbD_append

theorem opField_word (op : BitVec 4) (payload : BitVec 28) : opField (op ++ payload) = op := by
  apply BitVec.eq_of_getLsbD_eq
  intro j hj
  rw [opField, BitVec.getLsbD_extractLsb', getLsbD_word]
  simp [hj]

theorem payloadField_word (op : BitVec 4) (payload : BitVec 28) : payloadField (op ++ payload) = payload := by
  apply BitVec.eq_of_getLsbD_eq
  intro j hj
  rw [payloadField, BitVec.getLsbD_extractLsb', getLsbD_word]
  simp [hj]

end Sys2Proof

namespace Sys2Proof.Laws.OpField

open Sys2Proof

/-- The word of an instruction carries the instruction's opcode in bits 31 to 28. -/
def Statement (i : Instr) : Prop := opField (encode i) = i.opcode

theorem nop : Statement .nop := opField_word _ _
theorem openEngine (noDev : Bool) (req : BitVec 24) : Statement (.openEngine noDev req) :=
  opField_word 0x1#4 (BitVec.ofBool noDev ++ (0#3 ++ req))
theorem closeEngine : Statement .closeEngine := opField_word _ _
theorem advance (cycles : BitVec 28) : Statement (.advance cycles) := opField_word _ _
theorem csrRead (idx : BitVec 8) : Statement (.csrRead idx) := opField_word 0x4#4 (0#20 ++ idx)
theorem sinkReq (len : BitVec 28) : Statement (.sinkReq len) := opField_word _ _

end Sys2Proof.Laws.OpField
end

