-- ==== Sys2Proof/Tests/Slice0.lean ====
section
/-! SUPPORT. Tests: decoding by words written out from 30_encoding.md, one-step tests with the expected values of 95_test_vectors.md, and for every statement with hypotheses a state and operands that meet them. -/

namespace Sys2Proof.Tests

open Sys2Proof Sys2Proof.Machine

/-! ### Helpers -/

/-- What an outcome's next state shows. -/
def shows {α : Type} (o : Host.Outcome State Fault Refusal) (f : State → α) : Option α :=
  match o with
  | .next s => some (f s)
  | .fault _ => none
  | .refused _ => none

/-- One frame a buffer, as the programs P1 and P2 have it. -/
def q1 : Params := { Params.default with fblen := 1 }

/-- Right after reset. -/
def shut : State := State.fresh q1

/-- An open engine with an empty ring of three slots, every view settled. -/
def opened : State :=
  { shut with p.eng := .opened, p.capacity := 3, p.runP := true, p.ackSeen := true, c.runSeen := true, c.ackC := true }

/-- An open engine with one frame buffer in slot 0, which the consumer has seen. -/
def oneBuffer : State :=
  { opened with p.wrCnt := 1, p.wrGray := 0x001#11, p.writeIndex := 1, c.wrSeen := 1, ram := [(0, 0xFFFF003C#32)] }

/-- The same with a request for it presented. -/
def requested : State := { oneBuffer with env.req := some 0x80000001#32 }

/-- An open engine whose ring is full. -/
def full : State :=
  { opened with p.wrCnt := 3, p.wrGray := 0x002#11, p.writeIndex := 0, c.wrSeen := 3, ram := [(0, 1), (1, 2), (2, 3)] }

/-- The frames of the sources of P1, one each. -/
def withSources (s : State) : State :=
  { s with env.psg := [0xFFFD012C#32], env.pcm := [0x0000FF6A#32], env.fm := [0x0000001E#32] }

/-- An ADVANCE with one trigger due and the frames for it at hand. -/
def advancing : State := withSources { opened with p.phase := .advancing, p.audAcc := 525 }

/-- The same with a full ring. -/
def overrunning : State := withSources { full with p.phase := .advancing, p.audAcc := 525 }

/-- An OPEN that waits for the consumer. -/
def opening : State := { shut with p.capacity := 3, p.phase := .opening, p.runP := true }

/-- The same once the consumer has been seen to run. -/
def openingSeen : State := { opening with c.runSeen := true, c.ackC := true, p.ackSeen := true }

/-- A CLOSE whose request the consumer has seen. -/
def closing : State := { oneBuffer with p.phase := .closing, p.runP := false, c.runSeen := false }

/-- A CLOSE window in which the producer's view of the read pointer has yet to jump to 0. -/
def closeWindow : State :=
  { closing with c.wrSeen := 1, c.ackC := false, p.ackSeen := false, p.rdSeen := 1, x.rdJump := true }

/-- A CLOSE that may complete. -/
def closable : State := { closeWindow with p.rdSeen := 0, x.rdJump := false }

/-- A closed engine whose consumer has yet to see the zeroed write pointer. -/
def closed : State := { shut with p.eng := .closed, p.capacity := 3, c.wrSeen := 1, x.wrJump := true }

/-- In FAULT by the device fault, with every other sticky bit set. -/
def faulted : State := { shut with p.eng := .fault, p.fDev := true, p.ill := true, c.diagReq := true }

/-- Disabled by OPEN none. -/
def disabled : State := { shut with p.disabled := true }

/-- Two frames a buffer. -/
def q2 : Params := { Params.default with fblen := 2 }

/-- A bad request for three frames presented, and an ADVANCE with a trigger due. -/
def streaming : State :=
  { State.fresh q2 with
    env.req := some 0x80000003#32, p.eng := .opened, p.phase := .advancing, p.audAcc := 1024,
    env.psg := [1, 2], env.pcm := [3, 4], env.fm := [5, 6] }

/-- A closed engine whose consumer may lag behind the zeroed write pointer for one more step, with other steps to take. -/
def lagging : State :=
  { closed with lags.wrSeen := some { source := 0, left := 1 }, agenda := List.replicate 6 .hostTake }

/-- The run of the machine from there. -/
def laggingRun : Nat → State
  | 0 => lagging
  | n + 1 =>
    match step (laggingRun n) with
    | .next t => t
    | .fault _ => laggingRun n
    | .refused _ => laggingRun n

/-! ### The states above have the invariant -/

theorem test_inv_shut : shut.Inv := by constructor <;> first | decide | (unfold State.live; decide)
theorem test_inv_opened : opened.Inv := by constructor <;> first | decide | (unfold State.live; decide)
theorem test_inv_oneBuffer : oneBuffer.Inv := by constructor <;> first | decide | (unfold State.live; decide)
theorem test_inv_requested : requested.Inv := by constructor <;> first | decide | (unfold State.live; decide)
theorem test_inv_full : full.Inv := by constructor <;> first | decide | (unfold State.live; decide)
theorem test_inv_advancing : advancing.Inv := by constructor <;> first | decide | (unfold State.live; decide)
theorem test_inv_overrunning : overrunning.Inv := by constructor <;> first | decide | (unfold State.live; decide)
theorem test_inv_opening : opening.Inv := by constructor <;> first | decide | (unfold State.live; decide)
theorem test_inv_openingSeen : openingSeen.Inv := by constructor <;> first | decide | (unfold State.live; decide)
theorem test_inv_closing : closing.Inv := by constructor <;> first | decide | (unfold State.live; decide)
theorem test_inv_closeWindow : closeWindow.Inv := by constructor <;> first | decide | (unfold State.live; decide)
theorem test_inv_closable : closable.Inv := by constructor <;> first | decide | (unfold State.live; decide)
theorem test_inv_closed : closed.Inv := by constructor <;> first | decide | (unfold State.live; decide)
theorem test_inv_faulted : faulted.Inv := by constructor <;> first | decide | (unfold State.live; decide)
theorem test_inv_lagging : lagging.Inv := by constructor <;> first | decide | (unfold State.live; decide)
theorem test_inv_disabled : disabled.Inv := by constructor <;> first | decide | (unfold State.live; decide)

/-! ### Well-formedness and decoding, words written from R81 to R86 -/

/-- R54: the one check of WellFormed, at its boundary. -/
theorem test_wf_refuses_reserved_csr :
    Instr.wf (.csrRead 0x0A) = true ∧ Instr.wf (.csrRead 0x0B) = false ∧ Instr.wf (.csrRead 0xFF) = false := by decide

/-- R81. -/
theorem test_decode_nop : decodeCommand 0b00000000000000000000000000000000#32 = .instr .nop := by decide
/-- R82: NONE in bit 27, REQ in bits 23 to 0 (here the lowest and the highest bit of REQ). -/
theorem test_decode_open :
    decodeCommand 0b00010000000000000000000000000001#32 = .instr (.openEngine false 0x000001#24) ∧
    decodeCommand 0b00011000100000000000000000000000#32 = .instr (.openEngine true 0x800000#24) := by decide
/-- R82: bits 26 to 24 are reserved, each of them. -/
theorem test_decode_open_reserved :
    decodeCommand 0x11000003#32 = .reject .reservedBits ∧ decodeCommand 0x12000003#32 = .reject .reservedBits ∧
    decodeCommand 0x14000003#32 = .reject .reservedBits := by decide
/-- R83. -/
theorem test_decode_close :
    decodeCommand 0b00100000000000000000000000000000#32 = .instr .closeEngine ∧
    decodeCommand 0x20000001#32 = .reject .reservedBits := by decide
/-- R84. -/
theorem test_decode_advance :
    decodeCommand 0b00111000000000000000000000000001#32 = .instr (.advance 0x8000001#28) := by decide
/-- R85 and R54. -/
theorem test_decode_csr_read :
    decodeCommand 0b01000000000000000000000000001010#32 = .instr (.csrRead 0x0A#8) ∧
    decodeCommand 0x40000100#32 = .reject .reservedBits ∧ decodeCommand 0x400000FF#32 = .reject .reservedCsr := by decide
/-- R86 and R90. -/
theorem test_decode_sink_req :
    decodeRequest 0b10001000000000000000000000000001#32 = .instr (.sinkReq 0x8000001#28) ∧
    decodeRequest 0x30000100#32 = .reject .notSinkReq ∧ decodeCommand 0x80000100#32 = .reject .reservedOpcode := by decide
/-- The reserved opcodes of R80 on the command port. -/
theorem test_decode_reserved_opcodes :
    decodeCommand 0x50000000#32 = .reject .reservedOpcode ∧ decodeCommand 0x90000000#32 = .reject .reservedOpcode ∧
    decodeCommand 0xF0000000#32 = .reject .reservedOpcode := by decide
/-- The table's numbering: one 32-bit word, on the port it belongs to; 64 bits are no instruction (R91). -/
theorem test_decode_table_word :
    decodeTableWord 32 0x10FFFFFF = some (.openEngine false 0xFFFFFF#24) ∧
    decodeTableWord 32 0x80000001 = some (.sinkReq 1#28) ∧ decodeTableWord 64 0 = none := by decide

/-! ### Operands, mixer, crossing: vectors of 95_test_vectors.md -/

/-- Section 2.4, the clamp at its boundaries, and the ends of REQ. -/
theorem test_clamp :
    [-8388608, 0, 3, 4, 1024, 1025, 8388607].map clampCap = [3, 3, 3, 4, 1024, 1024, 1024] ∧
    reqOf 0x800000#24 = -8388608 := by decide
/-- Section 2.4. -/
theorem test_gray :
    [7, 8, 1023, 1024, 2046].map gray = [0x004#11, 0x00C#11, 0x200#11, 0x600#11, 0x401#11] ∧ bin 0x600#11 = 1024#11 := by
  decide
/-- Section 2.3: both channels at once, the extremes, and S5: truncation, not floor. -/
theorem test_mix :
    mixFrame 0xFED4012C#32 0x0096FF6A#32 0xFFE2001E#32 = 0xFFC4003C#32 ∧
    mixFrame 0x7FFF8000#32 0x7FFF8000#32 0x7FFF8000#32 = 0x7FFF8000#32 ∧
    mixLane 0xFFFF#16 0xFFFF#16 0xFFFE#16 = 0xFFFF#16 := by decide
/-- R60: the bytes of frame(0x1234, 0x5678). -/
theorem test_bytes : frameBytes 0x56781234#32 = [0x34#8, 0x12#8, 0x78#8, 0x56#8] := by decide
/-- Section 2.4: a reservation across the wrap of `wr_cnt`, and the publish that wraps it. -/
theorem test_publish_wraps :
    let s := { opened with p.writeIndex := 2, p.wrCnt := 2047, p.wrGray := 0x400#11, p.rdSeen := 2045 }
    tryReserve s = true ∧ (publish s).p.writeIndex = 0 ∧ (publish s).p.wrCnt = 0 ∧ (publish s).p.wrGray = 0x000#11 := by
  decide
/-- Section 2.4: the reservation table's drops. -/
theorem test_reserve_lags :
    tryReserve { opened with p.wrCnt := 5, p.rdSeen := 2 } = false ∧
    tryReserve { opened with p.wrCnt := 5, p.rdSeen := 3 } = true ∧
    tryReserve { opened with p.wrCnt := 1, p.rdSeen := 2046 } = false := by decide
/-- R92. -/
theorem test_assembler :
    assembleText q1 "OPEN -1 ; clamped to 3" = some [0x10FFFFFF#32] ∧
    assembleText q1 "CSR_READ DROP_COUNT" = some [0x4000000A#32] ∧
    assembleText q1 "SINK" = some [0x80000001#32] ∧
    assembleText q1 "ADVANCE* 268435456" = some [0x3FFFFFFF#32, 0x30000001#32] ∧
    assembleText q1 "ADVANCE 268435456" = none := by decide

/-! ### One step of each instruction: vectors of 95_test_vectors.md -/

theorem test_nop : shows (exec .nop faulted) (fun s => (s.p.rsp, s.p.eng)) =
    some (some { data := 0, code := .ok }, .fault) := by decide
/-- Section 2.6: OPEN 5000 asks for 1024 slots and waits for the consumer. -/
theorem test_open : shows (exec (.openEngine false 5000#24) shut)
    (fun s => (s.p.capacity, s.p.phase, s.p.runP, s.p.fmRate, s.out.fmInit)) =
    some (1024#11, .opening, true, 48828#32, true) := by decide
/-- Section 2.6: both fatal causes at once; the allocation fault is tested first. -/
theorem test_open_fault :
    shows (exec (.openEngine false 600#24) { shut with params.maxCapImpl := 512, env.devOk := false })
    (fun s => (s.p.rsp, statusWord s.p)) = some (some { data := 0, code := .allocFail }, 0x00000013#32) := by decide
theorem test_close : shows (exec .closeEngine opened) (fun s => (s.p.phase, s.p.runP, s.p.rsp)) =
    some (.closing, false, none) := by decide
theorem test_close_shut : shows (exec .closeEngine closed) (fun s => s.p.rsp) =
    some (some { data := 0, code := .ok }) := by decide
/-- Section 2.2: maximum operand with carry, from (7, 131047): 6400 triggers due and (6, 131047) left. -/
theorem test_advance_carry :
    shows (exec (.advance 268435455#28) { opened with params := Params.default, p.cpuAcc := 7, p.audAcc := 131047 })
    (fun s => (s.p.cpuAcc.toNat, s.p.audAcc.toNat / 131072, s.p.audAcc.toNat % 131072)) =
    some (6, 6400, 131047) := by decide
/-- Program P1, row 2: ADVANCE 168 accumulates 525 units; and the trigger stores frame(60, −1). -/
theorem test_advance_trigger :
    shows (exec (.advance 168#28) opened) (fun s => s.p.audAcc) = some 525#32 ∧
    shows (perform .trigger advancing) (fun s => (s.p.audAcc, s.p.advTrigs, s.p.wrCnt, s.ramRead 0)) =
    some (13#32, 1#32, 1#11, 0xFFFF003C#32) := by decide
/-- Section 2.6: CFG_RATIO. -/
theorem test_csr_ratio : shows (exec (.csrRead 0x02) State.reset) (fun s => s.p.rsp) =
    some (some { data := 0x02001908#32, code := .ok }) := by decide
/-- Section 2.6 and program P1: STATUS while open, and WR_STATE after one publish. -/
theorem test_csr_status :
    shows (exec (.csrRead 0x03) opened) (fun s => s.p.rsp) = some (some { data := 0x00000181#32, code := .ok }) ∧
    shows (exec (.csrRead 0x07) oneBuffer) (fun s => s.p.rsp) = some (some { data := 0x00010001#32, code := .ok }) := by
  decide
/-- Program P1, row 3: the frame is streamed with `out_last`, then the slot is released. -/
theorem test_sink_data : shows (exec (.sinkReq 1#28) oneBuffer)
    (fun s => (s.out.answer.map Answer.beats, s.c.readIndex, s.c.rdCnt, s.c.rdGray)) =
    some (some [(0xFFFF003C#32, true)], 1#11, 1#11, 0x001#11) := by decide
/-- Section 2.5: LEN 0 gives no frame and sets `diag_req`. -/
theorem test_sink_bad : shows (exec (.sinkReq 0#28) oneBuffer)
    (fun s => (s.out.answer.map Answer.words, s.c.diagReq, s.c.rdCnt)) = some (some [], true, 0#11) := by decide
/-- R168: a request for three frames of which two have been taken is cut off without `out_last`, and so is one of which all
but the last have; the trigger in the middle has taken one frame of PSG. -/
theorem test_reset_cuts_stream :
    shows (perform (.reset { stream := some 2, render := some (1, 0, 0) }) streaming)
      (fun s => (s.out.answer.map Answer.beats, s.env.req, s.env.psg)) =
      some (some [(0, false), (0, false)], none, [2]) ∧
    shows (perform (.reset { stream := some 9, render := none }) streaming) (fun s => s.out.answer.map Answer.beats) =
      some (some [(0, false), (0, false)]) := by decide
/-- R168: the ADVANCE in the middle gets no response; with no stream begun, nothing is shown. -/
theorem test_reset_abandons :
    shows (perform (.reset Cut.nothing) streaming) (fun s => (s.p.rsp, s.p.phase)) = some (none, .idle) ∧
    shows (perform (.reset Cut.nothing) streaming) (fun s => (s.out.answer, s.env.req)) =
      some (none, some 0x80000003#32) := by decide
/-- R11, Fairness: the view lags for the one step it has left and then moves directly to 0, before anything else. -/
theorem test_view_becomes_due :
    (laggingRun 1).c.wrSeen = 1 ∧ (laggingRun 1).overdue = some .wrSeen ∧ (laggingRun 2).c.wrSeen = 0 ∧
    (laggingRun 2).agenda = (laggingRun 1).agenda := by decide
/-- The kernel runs a placed word as the first instruction after reset. -/
theorem test_placed_word :
    shows (step (State.reset.withFetchWord 32 0x40000001)) (fun s => s.p.rsp) =
      some (some { data := 0x00000400#32, code := .ok }) ∧
    shows (step (State.reset.withFetchWord 32 0x80000100)) (fun s => s.out.answer) = some (some (.silence 256)) := by
  decide

/-! ### States and operands that meet the hypotheses of each statement -/

theorem witness_DecodeInvertsEncode :
    Instr.wf (.csrRead 0x0A) = true ∧ Instr.wf (.openEngine true 0x800000) = true ∧ Instr.wf (.sinkReq 0xFFFFFFF) = true := by
  decide
theorem witness_EncodeInvertsDecode :
    decodeOn .command 0x4000000A#32 = .instr (.csrRead 0x0A) ∧ decodeOn .consumer 0x80000001#32 = .instr (.sinkReq 1) := by
  decide
/-- A word for each illegal clause, at the clause's boundary. -/
theorem witness_IllegalWordsSetIllAndNothingElse :
    let n := fun w : Word => w.toNat
    (∀ w, { shut with env.cmd := some w }.cmdReady = true) ∧
    5 ≤ n 0x50000000#32 / 2 ^ 28 ∧
    (n 0x00000001#32 / 2 ^ 28 = 0 ∧ n 0x00000001#32 % 2 ^ 28 ≠ 0) ∧
    (n 0x11000000#32 / 2 ^ 28 = 1 ∧ n 0x11000000#32 / 2 ^ 24 % 8 ≠ 0) ∧
    (n 0x20000001#32 / 2 ^ 28 = 2 ∧ n 0x20000001#32 % 2 ^ 28 ≠ 0) ∧
    (n 0x40000100#32 / 2 ^ 28 = 4 ∧ n 0x40000100#32 / 2 ^ 8 % 2 ^ 20 ≠ 0) ∧
    (n 0x4000000B#32 / 2 ^ 28 = 4 ∧ 0x0A < n 0x4000000B#32 % 2 ^ 8) :=
  ⟨fun _ => rfl, by decide⟩
/-- A word at the boundary that is none of them. -/
theorem witness_IllegalWordsSetIllAndNothingElse_legal :
    shows (perform .accept { shut with env.cmd := some 0x4000000A#32 }) (fun s => s.p.rsp) =
      some (some { data := 0, code := .ok }) := by decide
theorem witness_OpcodeTableIsTheDecoder :
    (⟨"CSR_READ", 0x40000000#32, 0xFFFFFF00#32⟩ : OpcodeRow) ∈ opcodeRows ∧
    decodeOn (portOf 0x4000000A#32) 0x4000000A#32 = .instr (.csrRead 0x0A) := by decide
/-- The ends of REQ's range fit, and the integers beyond them do not. -/
theorem witness_OpenOperandIsSignedOrRefused :
    assembleLine q1 (.openReq (-8388608)) = some [0x10800000#32] ∧ assembleLine q1 (.openReq 8388607) = some [0x107FFFFF#32] ∧
    assembleLine q1 (.openReq (-8388609)) = none ∧ assembleLine q1 (.openReq 8388608) = none := by decide
theorem witness_StageOneIsExact :
    let s := { State.reset with p.cpuAcc := 7, p.audAcc := 131071 }
    s.params.legal = true ∧ s.p.cpuAcc.toNat < s.params.div1 ∧ s.p.audAcc.toNat < s.params.thresh ∧ 2 ^ 28 - 1 < 2 ^ 28 := by
  decide
theorem witness_AdvanceInOpenBeginsTheLoop : opened.p.eng = .opened := by decide
theorem witness_AdvanceOutsideOpenIsANoop : shut.p.eng = .uninit ∧ closed.p.eng = .closed := by decide
/-- Both sides of THRESH = 512. -/
theorem witness_AdvanceAnswersItsTriggerCount :
    advancing.p.phase = .advancing ∧ { advancing with p.audAcc := 511 }.p.audAcc.toNat < q1.thresh ∧
    q1.thresh ≤ { advancing with p.audAcc := 512 }.p.audAcc.toNat := by decide
theorem test_inv_withSources : (withSources opened).Inv := by
  constructor <;> first | decide | (unfold State.live; decide)
theorem witness_WholeAdvanceRunsItsTriggers :
    let s := withSources opened
    s.Inv ∧ s.p.eng = .opened ∧ s.cmdReady = true ∧
    (s.p.audAcc.toNat + (s.p.cpuAcc.toNat + (168#28).toNat) / s.params.div1 * s.params.mul1) / s.params.thresh = 1 ∧
    1 * s.params.fblen ≤ s.env.psg.length ∧ 1 * s.params.fblen ≤ s.env.pcm.length ∧
    1 * s.params.fblen ≤ s.env.fm.length := ⟨test_inv_withSources, by decide⟩
theorem witness_EveryStepAccountsForCycles :
    shut.Inv ∧ shut.accounts 0 ∧ perform .accept shut = .next shut :=
  ⟨test_inv_shut, ⟨by decide, 0, by decide, by decide⟩, rfl⟩
/-- OPEN 3, its handshake, ADVANCE 168 and its trigger, from reset. -/
theorem witness_NoDriftOverAnyRun :
    (play [.sourceDeliver .psg [0], .sourceDeliver .pcm [0], .sourceDeliver .fm [0], .hostDrive (some 0x10000003#32),
      .accept, .syncRun, .start, .syncAck, .finishHandshake, .hostTake, .hostDrive (some 0x300000A8#32), .accept, .trigger,
      .finishAdvance] (State.fresh q1) 0).map (fun r => (r.1.p.phase, r.2, r.1.p.audAcc, r.1.p.trigCount)) =
      some (.idle, 168, 13#32, 1#32) ∧ q1.legal = true := by decide
/-- One ADVANCE of exactly the cycles of the first trigger, ceil(512 / 25) × 8 = 168. -/
theorem witness_TriggerIndexIsItsCycleCount :
    opened.Inv ∧ opened.accounts 0 ∧
    (play [.sourceDeliver .psg [0], .sourceDeliver .pcm [0], .sourceDeliver .fm [0], .hostDrive (some 0x300000A8#32),
      .accept, .trigger, .finishAdvance] opened 0).map (fun r => (r.1.p.phase, r.2, r.1.p.trigCount)) =
      some (.idle, 168, 1#32) :=
  ⟨test_inv_opened, ⟨by decide, 0, by decide, by decide⟩, by decide⟩
theorem witness_MixIsSymmetricAndPerChannel :
    leftLane 0x00010002#32 = leftLane 0xFFFF0002#32 ∧ rightLane 0x00010002#32 = rightLane 0x0001FFFF#32 := by decide
theorem witness_ReservedTriggerPublishes : advancing.Inv ∧ advancing.publishes = true :=
  ⟨test_inv_advancing, by decide⟩
theorem witness_OverrunDropsSilently :
    triggerDue overrunning = true ∧ sourcesReady overrunning = true ∧ tryReserve overrunning = false := by decide
theorem witness_StarvedTriggerHolds :
    { advancing with env.psg := [] }.env.psg.length < q1.fblen ∧ { advancing with env.pcm := [] }.env.pcm.length < q1.fblen ∧
    { advancing with env.fm := [] }.env.fm.length < q1.fblen := by decide
/-- A full ring, and an empty one whose view has caught up. -/
theorem witness_ReservationIsConservative :
    full.Inv ∧ full.p.eng = .opened ∧ full.closeWindow = false ∧ full.count = full.p.capacity.toNat ∧
    opened.p.rdSeen = opened.c.rdCnt := ⟨test_inv_full, by decide⟩
/-- Each of the four pointer clauses. -/
theorem witness_SynchronizersMoveOnlyTheirView :
    (∀ s ∈ [oneBuffer, closed, closeWindow], s.p.wrGray = gray s.p.wrCnt ∧ s.c.rdGray = gray s.c.rdCnt) ∧
    oneBuffer.x.wrJump = false ∧ closed.x.wrJump = true ∧ oneBuffer.x.rdJump = false ∧ closeWindow.x.rdJump = true := by
  decide
theorem test_run_lagging : isRun laggingRun 6 := by
  intro k hk
  match k, hk with
  | 0, _ => rfl
  | 1, _ => rfl
  | 2, _ => rfl
  | 3, _ => rfl
  | 4, _ => rfl
  | 5, _ => rfl
/-- A view that is behind, and a run of as many steps as the bound asks, along which its source stays unchanged. -/
theorem witness_ViewsCatchUp :
    closed.Inv ∧ ¬ closed.settled ∧ (laggingRun 0).Inv ∧ settleBound .wrSeen (laggingRun 0) = 6 ∧ isRun laggingRun 6 ∧
    (∀ k, k < 7 → viewSource .wrSeen (laggingRun k) = 0) ∧ viewSeen .wrSeen (laggingRun 0) ≠ 0 :=
  ⟨test_inv_closed, by unfold State.settled; decide, test_inv_lagging, by decide, test_run_lagging, by decide,
    by decide⟩
theorem witness_FillLevelsAreBounded :
    full.Inv ∧ full.closeWindow = false ∧ full.c.ackC = true ∧ full.p.capacity ≠ 0 ∧ closeWindow.closeWindow = true :=
  ⟨test_inv_full, by decide⟩
/-- A publishing trigger, a data answer, an underrun, a stop, a reset and another step. -/
theorem witness_RingRefinesAQueue :
    advancing.Inv ∧ closing.Inv ∧ full.Inv ∧ advancing.publishes = true ∧ (∃ t, perform .trigger advancing = .next t) ∧
    requested.Inv ∧ requested.out.answer = none ∧ (∃ t, perform .sink requested = .next t ∧
      t.out.answer = some (.buffer [0xFFFF003C#32])) ∧
    (∃ t, perform .sink { opened with env.req := some 0x80000001#32 } = .next t ∧ t.out.answer = some (.silence 1)) ∧
    closing.c.ackC = true ∧ closing.c.runSeen = false ∧ (∃ t, perform .stop closing = .next t) ∧
    (∃ t, perform (.reset Cut.nothing) full = .next t) ∧ (∃ t, perform .syncRun full = .next t) :=
  ⟨test_inv_advancing, test_inv_closing, test_inv_full, by decide, ⟨_, rfl⟩, test_inv_requested, by decide, ⟨_, rfl, by decide⟩,
    ⟨_, rfl, by decide⟩, by decide, by decide, ⟨_, rfl⟩, ⟨_, rfl⟩, ⟨_, rfl⟩⟩
/-- The lengths beside FBLEN = 1, and the opcodes beside 8. -/
theorem witness_BadRequestIsZeroedAndFlagged :
    (0#28).toNat ≠ q1.fblen ∧ (2#28).toNat ≠ q1.fblen ∧ (0x70000001#32).toNat / 2 ^ 28 ≠ 8 ∧
    (0x90000001#32).toNat / 2 ^ 28 ≠ 8 ∧ { shut with env.req := some 0x90000001#32 }.env.req = some 0x90000001#32 ∧
    faulted.c.diagReq = true := by decide
theorem witness_StoppedOrEmptyGivesSilence :
    closed.Inv ∧ disabled.Inv ∧ (1#28).toNat = shut.params.fblen ∧ shut.c.ackC = false ∧ closed.p.eng ≠ .opened ∧ closed.p.phase ≠ .opening ∧
    disabled.p.disabled = true ∧ opened.c.ackC = true ∧ opened.c.wrSeen = opened.c.rdCnt :=
  ⟨test_inv_closed, test_inv_disabled, by decide⟩
theorem witness_DataIsVerbatimThenReleased :
    oneBuffer.Inv ∧ (1#28).toNat = oneBuffer.params.fblen ∧ oneBuffer.c.ackC = true ∧ oneBuffer.c.wrSeen ≠ oneBuffer.c.rdCnt :=
  ⟨test_inv_oneBuffer, by decide⟩
theorem test_inv_startable : State.Inv { opening with c.runSeen := true } := by
  constructor <;> first | decide | (unfold State.live; decide)
/-- All three conditions, and a state that lacks each of them. -/
theorem witness_ConsumerStartNeedsAllThree :
    let s := { opening with c.runSeen := true }
    s.Inv ∧ (s.c.ackC = false ∧ s.c.runSeen = true ∧ s.c.wrSeen = 0) ∧ ¬ (openingSeen.c.ackC = false) ∧
    ¬ (opening.c.runSeen = true) ∧ ¬ ({ s with c.wrSeen := 1 }.c.wrSeen = 0) := ⟨test_inv_startable, by decide⟩
theorem witness_ConsumerStopDiscards :
    closing.Inv ∧ closing.c.ackC = true ∧ closing.c.runSeen = false ∧ closing.p.phase = .closing ∧
    ¬ (closing.p.ackSeen = false ∧ closing.p.rdSeen = 0) ∧ opened.Inv ∧
    ¬ (opened.c.ackC = true ∧ opened.c.runSeen = false) :=
  ⟨test_inv_closing, by decide, by decide, by decide, by decide, test_inv_opened, by decide⟩
theorem witness_NopOnlyAnswers : (0x08000000#32).toNat / 2 ^ 28 = 0 ∧ 0x08000000#32 ≠ (0 : Word) := by decide
theorem witness_OpenIsIgnoredOrDisables :
    opened.p.eng = .opened ∧ (disabled.p.disabled = true ∧ disabled.p.eng = .uninit) ∧
    (closed.p.eng = .closed ∧ closed.p.disabled = false) := by decide
/-- A whole answer, one cut off, and one of which as many frames as it has are asked for. -/
theorem witness_LastBeatIsMarkedOnce :
    (∀ ws, Answer.buffer [1, 2] ≠ .cut ws) ∧ 1 < (Answer.buffer [1, 2]).beats.length ∧
    (Answer.buffer [1, 2]).cutAfter 1 = .cut [1] ∧ (Answer.buffer [1, 2]).cutAfter 2 = .cut [1] ∧
    1 < (Answer.buffer [1, 2]).length := ⟨(fun _ h => nomatch h), by decide⟩
/-- One slot too many, and just as many as there are. -/
theorem witness_FatalOpensEnterFault :
    let s := { shut with params.maxCapImpl := 512, env.devOk := false }
    s.p.eng = .uninit ∧ s.p.disabled = false ∧ s.params.maxCapImpl < clampCap (513#24).toInt ∧
    clampCap (512#24).toInt ≤ s.params.maxCapImpl ∧ s.env.devOk = false := by decide
theorem witness_OpenSuccessRequestsTheConsumer :
    closed.p.eng = .closed ∧ closed.p.disabled = false ∧ clampCap (0xFFFFFF#24).toInt ≤ closed.params.maxCapImpl ∧
    closed.env.devOk = true ∧ opening.p.phase = .opening ∧ opening.p.ackSeen = false ∧ openingSeen.p.phase = .opening ∧
    openingSeen.p.ackSeen = true := by decide
theorem witness_CloseByLifecycleState :
    shut.p.eng = .uninit ∧ closed.p.eng = .closed ∧ opened.p.eng = .opened ∧ faulted.p.eng = .fault := by decide
/-- Held by `ack_seen`, held by `rd_seen`, and complete. -/
theorem witness_CloseCompletesClean :
    closing.Inv ∧ closing.p.phase = .closing ∧ ¬ (closing.p.ackSeen = false ∧ closing.p.rdSeen = 0) ∧
    closeWindow.Inv ∧ closeWindow.p.phase = .closing ∧ ¬ (closeWindow.p.ackSeen = false ∧ closeWindow.p.rdSeen = 0) ∧
    closable.Inv ∧ closable.p.phase = .closing ∧ closable.p.ackSeen = false ∧ closable.p.rdSeen = 0 :=
  ⟨test_inv_closing, by decide, by decide, test_inv_closeWindow, by decide, by decide, test_inv_closable, by decide⟩
theorem witness_HandshakesComplete :
    closed.Inv ∧ closed.cmdReady = true ∧ openSucceeds false 3#24 closed = true ∧
    full.Inv ∧ full.cmdReady = true ∧ full.p.eng = .opened :=
  ⟨test_inv_closed, by decide, by decide, test_inv_full, by decide⟩
theorem witness_CsrReadReturnsEachRegister :
    (0x03 ≤ (0x03#8).toNat ∧ (0x03#8).toNat ≤ 0x0A) ∧ (0x03 ≤ (0x0A#8).toNat ∧ (0x0A#8).toNat ≤ 0x0A) ∧
    full.params.legal = true := by decide
theorem witness_ReservedCsrIsIllegal : 0x0B ≤ (0x0B#8).toNat ∧ 0x0B ≤ (0xFF#8).toNat := by decide
theorem witness_RunAndAckMeanOpenWhenIdle :
    opened.Inv ∧ opened.p.phase = .idle ∧ closed.Inv ∧ closed.p.phase = .idle :=
  ⟨test_inv_opened, by decide, test_inv_closed, by decide⟩
theorem witness_FaultStateOnlyAnswers :
    faulted.Inv ∧ faulted.p.eng = .fault ∧ (0x0A#8) ≤ lastCsr ∧
    { faulted with env.cmd := some 0x50000000#32 }.cmdReady = true ∧ decodeCommand 0x50000000#32 = .reject .reservedOpcode ∧
    (1#28).toNat = faulted.params.fblen ∧ (∃ t, perform .accept faulted = .next t) ∧ shut.p.eng ≠ .fault ∧
    (∃ v, perform .accept { shut with env.cmd := some 0x10000003#32, env.devOk := false } = .next v ∧ v.p.eng = .fault) :=
  ⟨test_inv_faulted, by decide, by decide, by decide, by decide, by decide, ⟨_, rfl⟩, by decide, ⟨_, rfl, by decide⟩⟩
theorem witness_StickyBitsLastUntilReset :
    faulted.Inv ∧ moveIsReset .accept = false ∧ (∃ t, perform .accept faulted = .next t) ∧ faulted.p.ill = true ∧
    faulted.p.fDev = true ∧ faulted.c.diagReq = true ∧ faulted.p.eng = .fault ∧ disabled.p.disabled = true ∧
    { faulted with p.fDev := false, p.fAlloc := true }.p.fAlloc = true :=
  ⟨test_inv_faulted, by decide, ⟨_, rfl⟩, by decide⟩
/-- A step that changes each flag. -/
theorem witness_StatusFlagsHaveOneWriter :
    shows (perform .accept { shut with env.cmd := some 0x50000000#32 }) (fun t => t.p.ill) = some true ∧
    shows (perform .accept { shut with env.cmd := some 0x10000003#32, env.devOk := false }) (fun t => t.p.fDev) = some true ∧
    shows (perform .accept { shut with env.cmd := some 0x18000000#32 }) (fun t => t.p.disabled) = some true ∧
    shows (perform .sink { shut with env.req := some 0x80000000#32 }) (fun t => t.c.diagReq) = some true := by decide
theorem witness_InstructionsLeaveTheRamAlone : ∃ t, exec (.sinkReq 1) oneBuffer = .next t := ⟨_, rfl⟩
theorem witness_CommandsKeepTheirFrame :
    (∃ t, exec .nop opened = .next t) ∧ (0x0A#8) ≤ lastCsr ∧ (∃ t, exec (.csrRead 0x0A) opened = .next t) ∧
    (∃ t, exec .closeEngine opened = .next t) ∧ (∃ t, exec (.advance 168) opened = .next t) ∧
    (∃ t, exec (.openEngine false 3) closed = .next t) :=
  ⟨⟨_, rfl⟩, by decide, ⟨_, rfl⟩, ⟨_, rfl⟩, ⟨_, rfl⟩, ⟨_, rfl⟩⟩
theorem witness_SinkRequestKeepsItsFrame : ∃ t, exec (.sinkReq 1) oneBuffer = .next t := ⟨_, rfl⟩
theorem witness_AgentsWriteOnlyTheirDomain :
    (∃ t, perform .trigger advancing = .next t) ∧ moveOfProducer .trigger = true ∧
    (∃ t, perform .stop closing = .next t) ∧ moveOfConsumer .stop = true ∧ moveOfProducer .stop = false ∧
    moveOfConsumer .trigger = false ∧ moveIsReset .stop = false ∧ moveIsReset .trigger = false :=
  ⟨⟨_, rfl⟩, by decide, ⟨_, rfl⟩, by decide⟩
/-- Each clause of a cut: a request whose answer is shown, none, and a trigger that is due. -/
theorem witness_ResetGivesTheTable :
    streaming.env.req ≠ none ∧ shows (perform .sink streaming) (fun u => u.out.answer) = some (some (.silence 3)) ∧
    shut.env.req = none ∧ triggerDue streaming = true := by decide
theorem witness_ResetHasTheInvariant : Params.default.legal = true ∧ q1.legal = true := by decide
theorem test_inv_scheduled : State.Inv { advancing with agenda := [.trigger] } := by
  constructor <;> first | decide | (unfold State.live; decide)
theorem witness_StepKeepsTheInvariant :
    State.Inv { advancing with agenda := [.trigger] } ∧ ∃ t, step { advancing with agenda := [.trigger] } = .next t :=
  ⟨test_inv_scheduled, ⟨_, rfl⟩⟩
/-- R5 at its boundary: FBLEN × SAMPLE_DIV is too large. -/
theorem witness_IllegalParametersAreRefused :
    { Params.default with fblen := 65535, sampleDiv := 65535 }.legal = false ∧ { Params.default with maxCapImpl := 2 }.legal = false ∧
    { Params.default with maxCapImpl := 3, syncStages := 3 }.legal = true := by decide
theorem witness_StepRunsTheDecodedInstruction :
    let s := { shut with agenda := [.accept], env.cmd := some 0x30000000#32 }
    let u := { shut with agenda := [.sink], env.req := some 0x80000001#32 }
    (s.overdue = none ∧ u.overdue = none ∧ (laggingRun 1).overdue = some .wrSeen) ∧
    (opening.p.phase ≠ .idle ∧ { shut with p.rsp := some { data := 0, code := .ok } }.p.rsp ≠ none) ∧
    s.params.legal = true ∧ s.agenda = .accept :: [] ∧ s.env.cmd = some 0x30000000#32 ∧ s.p.phase = .idle ∧
    s.p.rsp = none ∧ decodeCommand 0x30000000#32 = .instr (.advance 0) ∧ u.agenda = .sink :: [] ∧
    u.env.req = some 0x80000001#32 ∧ decodeRequest 0x80000001#32 = .instr (.sinkReq 1) := by decide
theorem test_inv_responded : State.Inv { shut with p.rsp := some { data := 0, code := .ok } } := by
  constructor <;> first | decide | (unfold State.live; decide)
/-- A pending response, and a command presented meanwhile. -/
theorem witness_StepRunsTheDecodedInstruction_held :
    let s := { shut with p.rsp := some { data := 0, code := .ok } }
    s.Inv ∧ s.p.rsp = some { data := 0, code := .ok } ∧ Move.accept ≠ .hostTake ∧ moveIsReset .accept = false ∧
    ∃ t, perform .accept { s with env.cmd := some 0#32 } = .next t :=
  ⟨test_inv_responded, by decide, by decide, by decide, ⟨_, rfl⟩⟩
theorem witness_PlacedWordRunsNext :
    opening.params.legal = true ∧ Instr.wf (.csrRead 0x0A) = true ∧ Instr.wf (.sinkReq 1) = true := by decide
theorem witness_UnstableWordsAreRefused :
    (none : Option Word) ≠ some 0#32 ∧ some 1#32 ≠ some 0#32 ∧ { shut with env.cmd := some 0#32 }.env.cmd = some 0#32 ∧
    { shut with env.req := some 0#32 }.env.req = some 0#32 := by decide

end Sys2Proof.Tests
end

section
/-! PROOFS. The word of a CSR_READ, CSR_READ as an equation per case (R147, R54), the CSR words as numbers, field by
field (R43 to R53), and the two statements about CSR_READ: O43 and O44. -/

namespace Sys2Proof.Machine

open Sys2Proof

/-- An append as a sum: the low part, and the high part moved up by the low part's width. -/
theorem toNat_append_eq_add {m n : Nat} (x : BitVec m) (y : BitVec n) :
    (x ++ y).toNat = 2 ^ n * x.toNat + y.toNat := by
  rw [BitVec.toNat_append, ← Nat.shiftLeft_add_eq_or_of_lt y.isLt, Nat.shiftLeft_eq, Nat.mul_comm]

/-! ### The word of a CSR_READ -/

theorem encode_csrRead (idx : BitVec 8) : encode (.csrRead idx) = BitVec.ofNat 32 (0x40000000 + idx.toNat) := by
  apply BitVec.eq_of_toNat_eq
  change BitVec.toNat (w := 4 + (20 + 8)) (0x4#4 ++ (0#20 ++ idx)) = _
  simp only [toNat_append_eq_add, BitVec.toNat_ofNat]
  omega

theorem csrReservedField_csrRead (idx : BitVec 8) : csrReservedField (encode (.csrRead idx)) = 0#20 := by
  apply BitVec.eq_of_getLsbD_eq
  intro j hj
  rw [csrReservedField, BitVec.getLsbD_extractLsb', encode, getLsbD_word, BitVec.getLsbD_append]
  simp [show 8 + j < 28 by omega]

theorem idxField_csrRead (idx : BitVec 8) : idxField (encode (.csrRead idx)) = idx := by
  apply BitVec.eq_of_getLsbD_eq
  intro j hj
  rw [idxField, BitVec.getLsbD_extractLsb', encode, getLsbD_word, BitVec.getLsbD_append]
  simp [hj, show j < 28 by omega]

/-- The word of a CSR_READ passes the opcode and reserved-bit checks of R88; its index decides. -/
theorem decodeCommand_csrRead (idx : BitVec 8) :
    decodeCommand (encode (.csrRead idx)) =
      if idx ≤ lastCsr then .instr (.csrRead idx) else .reject .reservedCsr := by
  have hop : opField (encode (.csrRead idx)) = 0x4#4 := Laws.OpField.csrRead idx
  simp [decodeCommand, hop, csrReservedField_csrRead, idxField_csrRead]

/-! ### CSR_READ, an equation per case -/

theorem exec_csrRead_of_some {idx : BitVec 8} {s : State} {v : Word} (h : csrValue idx s = some v) :
    exec (.csrRead idx) s = .next { s with p.rsp := some { data := v, code := .ok } } := by
  simp only [exec, execCsrRead, h, done, State.respond]

theorem exec_csrRead_of_none {idx : BitVec 8} {s : State} (h : csrValue idx s = none) :
    exec (.csrRead idx) s = .next { s with p.ill := true, p.rsp := some { data := 0, code := .illegal } } := by
  simp only [exec, execCsrRead, h, takeIllegal, State.respond]

theorem csrValue_reserved {idx : BitVec 8} (h : 0x0B ≤ idx.toNat) (s : State) : csrValue idx s = none := by
  unfold csrValue
  split
  case h_12 => rfl
  all_goals omega

/-! ### The CSR words as numbers -/

/-- The ranges of R5 fit the widths of R43 to R45. -/
theorem legal_fits_csr {q : Params} (h : q.legal = true) :
    q.fblen < 2 ^ 16 ∧ q.maxCapImpl < 2 ^ 11 ∧ q.div1 < 2 ^ 8 ∧ q.mul1 < 2 ^ 8 ∧ q.sampleDiv < 2 ^ 16 := by
  simp only [Params.legal, Bool.and_eq_true, decide_eq_true_eq] at h
  omega

theorem cfgRatioWord_eq {q : Params} (h : q.legal = true) :
    cfgRatioWord q = BitVec.ofNat 32 (q.div1 + 2 ^ 8 * q.mul1 + 2 ^ 16 * q.sampleDiv) := by
  obtain ⟨-, -, hdiv, hmul, hsample⟩ := legal_fits_csr h
  apply BitVec.eq_of_toNat_eq
  change BitVec.toNat (w := 16 + (8 + 8)) (_ ++ (_ ++ _)) = _
  simp only [toNat_append_eq_add, BitVec.toNat_ofNat]
  omega

theorem wrStateWord_eq (p : Producer) :
    wrStateWord p = BitVec.ofNat 32 (p.writeIndex.toNat + 2 ^ 16 * p.wrCnt.toNat) := by
  have := p.writeIndex.isLt
  have := p.wrCnt.isLt
  apply BitVec.eq_of_toNat_eq
  change BitVec.toNat (w := 5 + (11 + (5 + 11))) (_ ++ (_ ++ (_ ++ _))) = _
  simp only [toNat_append_eq_add, BitVec.toNat_ofNat]
  omega

@[simp] theorem flagBit_toNat (b : Bool) : (flagBit b).toNat = if b then 1 else 0 := by
  cases b <;> rfl

theorem statusWord_eq (p : Producer) :
    statusWord p = BitVec.ofNat 32 (p.eng.code.toNat + 2 ^ 2 * (flagBit p.disabled).toNat +
      2 ^ 3 * (flagBit p.ill).toNat + 2 ^ 4 * (flagBit p.fAlloc).toNat + 2 ^ 5 * (flagBit p.fDev).toNat +
      2 ^ 6 * (flagBit p.diagSeen).toNat + 2 ^ 7 * (flagBit p.runP).toNat + 2 ^ 8 * (flagBit p.ackSeen).toNat) := by
  apply BitVec.eq_of_toNat_eq
  change BitVec.toNat (w := 23 + (1 + (1 + (1 + (1 + (1 + (1 + (1 + 2))))))))
    (_ ++ (_ ++ (_ ++ (_ ++ (_ ++ (_ ++ (_ ++ (_ ++ _)))))))) = _
  simp only [toNat_append_eq_add, BitVec.toNat_ofNat]
  omega

/-- COUNT_P (R51), the pointer distance, as a number modulo 2048. -/
theorem countPWord_eq (a b : Ptr) :
    (a - b).setWidth 32 = BitVec.ofNat 32 ((a.toNat + 2048 - b.toNat) % 2048) := by
  have := b.isLt
  rw [← BitVec.ofNat_toNat, BitVec.toNat_sub]
  congr 2
  omega

theorem statusWord_reset : statusWord Producer.reset = 0 := by decide

theorem wrStateWord_reset : wrStateWord Producer.reset = 0 := by decide

theorem countPWord_reset : (Producer.reset.wrCnt - Producer.reset.rdSeen).setWidth 32 = (0 : Word) := by decide

/-- Right after reset every CSR that is not a parameter reads 0 (R56). -/
theorem csrValue_fresh {idx : BitVec 8} (q : Params) (hlo : 0x03 ≤ idx.toNat) (hhi : idx.toNat ≤ 0x0A) :
    csrValue idx (State.fresh q) = some 0 := by
  unfold csrValue
  generalize idx.toNat = n at hlo hhi ⊢
  obtain rfl | rfl | rfl | hregister : n = 3 ∨ n = 7 ∨ n = 8 ∨ (n = 4 ∨ n = 5 ∨ n = 6 ∨ n = 9 ∨ n = 10) := by omega
  · exact congrArg some statusWord_reset
  · exact congrArg some wrStateWord_reset
  · exact congrArg some countPWord_reset
  · obtain rfl | rfl | rfl | rfl | rfl := hregister <;> rfl

/-! ### The statements -/

/-- Settles O43: the value of each index as a number, field by field, and the answer that CSR_READ makes of it. -/
theorem csrReadReturnsEachRegister : Obligations.CsrReadReturnsEachRegister := by
  unfold Obligations.CsrReadReturnsEachRegister
  refine ⟨fun q idx hlo hhi => exec_csrRead_of_some (csrValue_fresh q hlo hhi), fun s hs => ?_⟩
  intro bit reads state
  have hreads {idx : BitVec 8} {n : Nat} (h : csrValue idx s = some (BitVec.ofNat 32 n)) : reads idx n :=
    exec_csrRead_of_some h
  have hstate : state = s.p.eng.code.toNat := by
    simp only [state]
    cases s.p.eng <;> rfl
  obtain ⟨hfblen, hcap, -⟩ := legal_fits_csr hs
  refine ⟨hreads ?fblen, hreads ?maxCap, hreads ?ratio, hreads ?status, hreads ?capacity, hreads ?cpuAcc,
    hreads ?audAcc, hreads ?wrState, hreads ?countP, hreads ?trigCount, hreads ?dropCount⟩
  case fblen => exact congrArg some (BitVec.setWidth_ofNat_of_le_of_lt (by decide) hfblen)
  case maxCap => exact congrArg some (BitVec.setWidth_ofNat_of_le_of_lt (by decide) hcap)
  case ratio => exact congrArg some (cfgRatioWord_eq hs)
  case status =>
    simp only [hstate, bit, ← flagBit_toNat]
    exact congrArg some (statusWord_eq s.p)
  case capacity => exact congrArg some (BitVec.ofNat_toNat 32 _).symm
  case wrState => exact congrArg some (wrStateWord_eq s.p)
  case countP => exact congrArg some (countPWord_eq s.p.wrCnt s.p.rdSeen)
  all_goals
    rw [BitVec.ofNat_toNat, BitVec.setWidth_eq]
    rfl

/-- Settles O44: the index check of R88 at decode, and the meaning where `csrValue` has no value. -/
theorem reservedCsrIsIllegal : Obligations.ReservedCsrIsIllegal := by
  unfold Obligations.ReservedCsrIsIllegal
  intro idx s hidx
  have habove : ¬ idx ≤ lastCsr := by
    simp only [BitVec.le_def, lastCsr, BitVec.toNat_ofNat]
    omega
  refine ⟨?decode, exec_csrRead_of_none (csrValue_reserved hidx s)⟩
  case decode => rw [← encode_csrRead, decodeCommand_csrRead, if_neg habove]

end Sys2Proof.Machine
end

section
/-! PROOFS. The lanes of a frame word (R59), its bytes (R60), and the statement about both: O8. -/

namespace Sys2Proof.Machine

open Sys2Proof

/-- A word cut in two, as the sum of `toNat_append_eq_add`. -/
theorem toNat_eq_add_extractLsb' {m n : Nat} (x : BitVec (m + n)) :
    x.toNat = 2 ^ n * (x.extractLsb' n m).toNat + (x.extractLsb' 0 n).toNat := by
  rw [← toNat_append_eq_add, BitVec.extractLsb'_append_extractLsb'_eq_extractLsb' (Nat.zero_add n).symm,
    BitVec.extractLsb'_eq_self]

@[simp] theorem leftLane_frameWord (l r : Sample) : leftLane (frameWord l r) = l :=
  BitVec.extractLsb'_append_eq_right

@[simp] theorem rightLane_frameWord (l r : Sample) : rightLane (frameWord l r) = r :=
  BitVec.extractLsb'_append_eq_left

theorem toNat_eq_add_lanes (f : Word) : f.toNat = 2 ^ 16 * (rightLane f).toNat + (leftLane f).toNat :=
  toNat_eq_add_extractLsb' (m := 16) (n := 16) f

/-- A sample is its low byte and 256 times its high byte, the little-endian order of R60. -/
theorem sample_toNat_eq_add_bytes (x : Sample) :
    x.toNat = (x.extractLsb' 0 8).toNat + 256 * (x.extractLsb' 8 8).toNat :=
  (toNat_eq_add_extractLsb' (m := 8) (n := 8) x).trans (Nat.add_comm _ _)

/-- Settles O8: a frame word is the append of its lanes, and each lane the append of its two bytes. -/
theorem frameLanesAndBytes : Obligations.FrameLanesAndBytes := by
  unfold Obligations.FrameLanesAndBytes
  intro l r f
  exact ⟨leftLane_frameWord l r, rightLane_frameWord l r, toNat_eq_add_lanes f, _, _, _, _, rfl,
    sample_toNat_eq_add_bytes (leftLane f), sample_toNat_eq_add_bytes (rightLane f)⟩

end Sys2Proof.Machine
end

section
/-! PROOFS. The fields of a command word as numbers (R79 to R85), which words the command port rejects (R88), the accept
step as an equation per decode, and the statement about ILLEGAL words: O3. -/

namespace Sys2Proof.Machine

open Sys2Proof

/-! ### The fields as numbers -/

theorem opField_toNat (w : Word) : (opField w).toNat = w.toNat / 2 ^ 28 := by
  rw [opField, BitVec.extractLsb'_toNat, Nat.shiftRight_eq_div_pow]
  omega

theorem payloadField_toNat (w : Word) : (payloadField w).toNat = w.toNat % 2 ^ 28 := by
  rw [payloadField, BitVec.extractLsb'_toNat, Nat.shiftRight_zero]

theorem openReservedField_toNat (w : Word) : (openReservedField w).toNat = w.toNat / 2 ^ 24 % 8 := by
  rw [openReservedField, BitVec.extractLsb'_toNat, Nat.shiftRight_eq_div_pow]

theorem csrReservedField_toNat (w : Word) : (csrReservedField w).toNat = w.toNat / 2 ^ 8 % 2 ^ 20 := by
  rw [csrReservedField, BitVec.extractLsb'_toNat, Nat.shiftRight_eq_div_pow]

theorem idxField_toNat (w : Word) : (idxField w).toNat = w.toNat % 2 ^ 8 := by
  rw [idxField, BitVec.extractLsb'_toNat, Nat.shiftRight_zero]

/-! ### The rejected command words -/

/-- R88 on the command word as a number: a reserved opcode, a reserved field of NOP, OPEN, CLOSE or CSR_READ that is not
zero, or a reserved CSR index. -/
def IllegalCommand (n : Nat) : Prop :=
  5 ≤ n / 2 ^ 28 ∨
  (n / 2 ^ 28 = 0 ∧ n % 2 ^ 28 ≠ 0) ∨ (n / 2 ^ 28 = 1 ∧ n / 2 ^ 24 % 8 ≠ 0) ∨
  (n / 2 ^ 28 = 2 ∧ n % 2 ^ 28 ≠ 0) ∨ (n / 2 ^ 28 = 4 ∧ n / 2 ^ 8 % 2 ^ 20 ≠ 0) ∨
  (n / 2 ^ 28 = 4 ∧ 0x0A < n % 2 ^ 8)

/-- Each branch of the decoder is an instruction outside R88's clauses (`pos`, where all its checks pass) or a rejection
inside one. -/
theorem decodeCommand_reject_iff (w : Word) : (∃ r, decodeCommand w = .reject r) ↔ IllegalCommand w.toNat := by
  simp only [decodeCommand, IllegalCommand, lastCsr, ← BitVec.toNat_inj, BitVec.le_def, opField_toNat,
    payloadField_toNat, openReservedField_toNat, csrReservedField_toNat, idxField_toNat, BitVec.toNat_ofNat]
  split_ifs
  case pos | pos | pos | pos | pos => exact iff_of_false nofun (by omega)
  all_goals exact iff_of_true ⟨_, rfl⟩ (by omega)

/-! ### The accept step -/

theorem accept_of_instr {s : State} {w : Word} {i : Instr} (hcmd : s.env.cmd = some w) (hready : s.cmdReady = true)
    (hdec : decodeCommand w = .instr i) : perform .accept s = exec i { s with env.cmd := none } := by
  simp only [perform, stepAccept, hcmd, hready, if_true, hdec]

theorem accept_of_reject {s : State} {w : Word} {r : Reject} (hcmd : s.env.cmd = some w) (hready : s.cmdReady = true)
    (hdec : decodeCommand w = .reject r) : perform .accept s = .next (takeIllegal { s with env.cmd := none }) := by
  simp only [perform, stepAccept, hcmd, hready, if_true, hdec]

/-! ### The statement -/

/-- Settles O3: the illegal words are the rejected ones, and the accept step answers by what the word decodes to. -/
theorem illegalWordsSetIllAndNothingElse : Obligations.IllegalWordsSetIllAndNothingElse := by
  unfold Obligations.IllegalWordsSetIllAndNothingElse
  intro s w hcmd hready n illegal
  have hrejected : (∃ r, decodeCommand w = .reject r) ↔ illegal := decodeCommand_reject_iff w
  rw [← hrejected]
  refine ⟨fun ⟨r, hr⟩ => accept_of_reject hcmd hready hr, fun hlegal => ?_⟩
  cases hdec : decodeCommand w with
  | instr i => exact ⟨i, rfl, accept_of_instr hcmd hready hdec⟩
  | reject r => exact absurd ⟨r, hdec⟩ hlegal

end Sys2Proof.Machine
end

section
/-! PROOFS. Stage 1 of ADVANCE on integers (R95) from the ranges of R5, ADVANCE with no open engine (R98), and the two
statements about them: O9 and O11. -/

namespace Sys2Proof.Machine

open Sys2Proof

/-! ### Stage 1 on integers -/

/-- What R5 says of the two accumulators: the range of DIV1, and the room for the largest gain of one ADVANCE. -/
theorem legal_bounds_stage1 {q : Params} (h : q.legal = true) :
    0 < q.div1 ∧ q.div1 < 2 ^ 8 ∧ (2 ^ 28 - 1 + q.div1 - 1) / q.div1 * q.mul1 + q.thresh - 1 < 2 ^ 32 := by
  simp only [Params.legal, Bool.and_eq_true, decide_eq_true_eq] at h
  omega

/-- The gain grows with `t`, so the room that R5 leaves for the largest `t` is enough. -/
theorem audAcc_gain_lt {q : Params} (h : q.legal = true) {a t : Nat} (ha : a < q.thresh)
    (ht : t < 2 ^ 28 + q.div1 - 1) : a + t / q.div1 * q.mul1 < 2 ^ 32 := by
  obtain ⟨-, -, hroom⟩ := legal_bounds_stage1 h
  have hgain : t / q.div1 * q.mul1 ≤ (2 ^ 28 - 1 + q.div1 - 1) / q.div1 * q.mul1 :=
    Nat.mul_le_mul_right _ (Nat.div_le_div_right (by omega))
  omega

theorem stage1_cpuAcc_toNat {n : Nat} {s : State} (h : s.params.legal = true) :
    (stage1 n s).p.cpuAcc.toNat = (s.p.cpuAcc.toNat + n) % s.params.div1 := by
  obtain ⟨hpos, hdiv, -⟩ := legal_bounds_stage1 h
  have hrem := Nat.mod_lt (s.p.cpuAcc.toNat + n) hpos
  rw [stage1_p, BitVec.toNat_ofNat, Nat.mod_eq_of_lt (by omega)]

theorem stage1_audAcc_toNat {n : Nat} {s : State} (h : s.params.legal = true) (ha : s.p.audAcc.toNat < s.params.thresh)
    (ht : s.p.cpuAcc.toNat + n < 2 ^ 28 + s.params.div1 - 1) :
    (stage1 n s).p.audAcc.toNat =
      s.p.audAcc.toNat + (s.p.cpuAcc.toNat + n) / s.params.div1 * s.params.mul1 := by
  rw [stage1_p, BitVec.toNat_ofNat, Nat.mod_eq_of_lt (audAcc_gain_lt h ha ht)]

/-! ### ADVANCE with no open engine -/

theorem exec_advance_of_not_open {cycles : BitVec 28} {s : State} (hfault : s.p.eng ≠ .fault)
    (hopen : s.p.eng ≠ .opened) :
    exec (.advance cycles) s = .next { s with p.rsp := some { data := 0, code := .ok } } := by
  simp only [exec, execAdvance, if_neg hfault, if_pos hopen, done, State.respond]

/-! ### The statements -/

/-- Settles O9: `cpu_acc` is below DIV1 and `cycles` below 2^28, which bounds `t`, and R5 then bounds both results. -/
theorem stageOneIsExact : Obligations.StageOneIsExact := by
  unfold Obligations.StageOneIsExact
  intro s cycles hlegal hcpu haud hcycles t s'
  obtain ⟨-, hdiv, -⟩ := legal_bounds_stage1 hlegal
  have ht : t < 2 ^ 28 + s.params.div1 - 1 := by omega
  exact ⟨ht, by omega, stage1_cpuAcc_toNat hlegal, stage1_audAcc_toNat hlegal haud ht, rfl⟩

/-- Settles O11: UNINIT and CLOSED are neither FAULT nor OPEN. -/
theorem advanceOutsideOpenIsANoop : Obligations.AdvanceOutsideOpenIsANoop := by
  unfold Obligations.AdvanceOutsideOpenIsANoop
  rintro cycles s (heng | heng) <;>
    exact exec_advance_of_not_open (by simp [heng]) (by simp [heng])

end Sys2Proof.Machine
end

section
/-! PROOFS. The mixer on integers: the 18-bit sum does not wrap (R109), the saturation stage fits a sample (R108), and
the statement about a mixed frame: O17. -/

namespace Sys2Proof.Machine

open Sys2Proof

/-! ### One channel on integers -/

/-- R109: three samples lie in −98304 … 98301 together, inside the range of the 18-bit adder. -/
theorem toInt_sum18 (a b c : Sample) :
    (a.signExtend 18 + b.signExtend 18 + c.signExtend 18).toInt = a.toInt + b.toInt + c.toInt := by
  have hext (x : Sample) : (x.signExtend 18).toInt = x.toInt := BitVec.toInt_signExtend_of_le (by decide)
  have hrange (x : Sample) : -2 ^ 15 ≤ x.toInt ∧ x.toInt < 2 ^ 15 := ⟨x.le_toInt, x.toInt_lt⟩
  obtain ⟨ha, ha'⟩ := hrange a
  obtain ⟨hb, hb'⟩ := hrange b
  obtain ⟨hc, hc'⟩ := hrange c
  rw [BitVec.toInt_add, BitVec.toInt_add, Int.bmod_add_bmod, hext, hext, hext]
  exact Int.bmod_eq_of_le (by omega) (by omega)

/-- A saturated value survives the cut to 16 bits. -/
@[simp] theorem toInt_ofInt_sat16 (q : Int) : (BitVec.ofInt 16 (sat16 q)).toInt = sat16 q := by
  have hrange : -2 ^ 15 ≤ sat16 q ∧ sat16 q < 2 ^ 15 := by unfold sat16; omega
  rw [BitVec.toInt_ofInt]
  exact Int.bmod_eq_of_le (by omega) (by omega)

theorem mixLane_toInt (a b c : Sample) : (mixLane a b c).toInt = sat16 ((a.toInt + b.toInt + c.toInt).tdiv 3) := by
  rw [mixLane, toInt_sum18, toInt_ofInt_sat16]

/-! ### The two lanes of a mixed frame -/

@[simp] theorem leftLane_mixFrame (fa fb fc : Word) :
    leftLane (mixFrame fa fb fc) = mixLane (leftLane fa) (leftLane fb) (leftLane fc) :=
  leftLane_frameWord _ _

@[simp] theorem rightLane_mixFrame (fa fb fc : Word) :
    rightLane (mixFrame fa fb fc) = mixLane (rightLane fa) (rightLane fb) (rightLane fc) :=
  rightLane_frameWord _ _

/-! ### The statement -/

/-- Settles O17: each lane of the mixed frame is one `mixLane`, and the statement's clamp is `sat16`. -/
theorem mixFrameIsTheExactQuotient : Obligations.MixFrameIsTheExactQuotient := by
  unfold Obligations.MixFrameIsTheExactQuotient
  intro fa fb fc
  rw [leftLane_mixFrame, rightLane_mixFrame]
  exact ⟨mixLane_toInt _ _ _, mixLane_toInt _ _ _⟩

end Sys2Proof.Machine
end

section
/-! PROOFS. The gray code bit by bit, its inverse as a scan from the top bit down, the bits that change from one pointer
to the next (R120), and the statement about them: O23. -/

namespace Sys2Proof.Machine

open Sys2Proof

/-! ### The code, bit by bit -/

@[simp] theorem getLsbD_gray (b : Ptr) (i : Nat) : (gray b).getLsbD i = xor (b.getLsbD i) (b.getLsbD (i + 1)) := by
  simp [gray, BitVec.getLsbD_ushiftRight, Nat.add_comm 1 i]

/-- The code is linear over XOR. -/
theorem gray_xor (a b : Ptr) : gray a ^^^ gray b = gray (a ^^^ b) := by
  refine BitVec.eq_of_getLsbD_eq fun i _ => ?_
  simp only [BitVec.getLsbD_xor, getLsbD_gray, Bool.xor_assoc, Bool.xor_left_comm (a.getLsbD (i + 1))]

/-! ### One step of the inverse -/

@[simp] theorem getLsbD_binStep_zero (g acc : Ptr) (i : Nat) :
    (binStep g acc i).getLsbD 0 = xor (acc.getLsbD 0) (g.getLsbD i) := by
  simp [binStep]

theorem getLsbD_binStep_succ (g acc : Ptr) (i j : Nat) (hj : j + 1 < 11) :
    (binStep g acc i).getLsbD (j + 1) = acc.getLsbD j := by
  simp [binStep, hj, Nat.lt_of_succ_lt hj]

/-- With the bits of `b` above bit `n` found, a step finds bit `n`. -/
theorem binStep_gray (b : Ptr) (n : Nat) : binStep (gray b) (b >>> (n + 1)) n = b >>> n := by
  refine BitVec.eq_of_getLsbD_eq fun i hi => ?_
  cases i with
  | zero => simp only [getLsbD_binStep_zero, getLsbD_gray, BitVec.getLsbD_ushiftRight, Nat.add_zero,
      Bool.xor_comm (b.getLsbD n), Bool.bne_self_left]
  | succ j => rw [getLsbD_binStep_succ _ _ _ _ hi, BitVec.getLsbD_ushiftRight, BitVec.getLsbD_ushiftRight,
      Nat.add_right_comm, Nat.add_assoc]

/-! ### The inverse as a scan -/

/-- The scan of `bin` from bit `n − 1` down to bit 0, with the bits above it in `acc`. -/
def binFrom (g : Ptr) : Nat → Ptr → Ptr
  | 0, acc => acc
  | n + 1, acc => binFrom g n (binStep g acc n)

theorem bin_eq_binFrom (g : Ptr) : bin g = binFrom g 11 0 := rfl

/-- The rest of a scan moves the bits already found up by one place per step. -/
theorem getLsbD_binFrom_add (g acc : Ptr) (n j : Nat) (hj : j + n < 11) :
    (binFrom g n acc).getLsbD (j + n) = acc.getLsbD j := by
  induction n generalizing acc j with
  | zero => rfl
  | succ n ih =>
    have hshift := ih (binStep g acc n) (j + 1) (by omega)
    rw [binFrom, show j + (n + 1) = j + 1 + n by omega, hshift, getLsbD_binStep_succ _ _ _ _ (by omega)]

/-- R120: each bit that the scan finds is the next higher bit XOR the bit of `g`. -/
theorem getLsbD_binFrom (g acc : Ptr) (n i : Nat) (hn : n ≤ 10) (hi : i < n) :
    (binFrom g n acc).getLsbD i = xor ((binFrom g n acc).getLsbD (i + 1)) (g.getLsbD i) := by
  induction n generalizing acc with
  | zero => omega
  | succ n ih =>
    obtain hlt | rfl : i < n ∨ i = n := by omega
    · exact ih _ (by omega) hlt
    · have hfound := getLsbD_binFrom_add g (binStep g acc i) i 0 (by omega)
      have habove := getLsbD_binFrom_add g acc (i + 1) 0 (by omega)
      rw [Nat.zero_add] at hfound habove
      rw [habove, binFrom, hfound, getLsbD_binStep_zero]

theorem binFrom_gray (b : Ptr) (n : Nat) : binFrom (gray b) n (b >>> n) = b := by
  induction n with
  | zero => rfl
  | succ n ih => rw [binFrom, binStep_gray, ih]

theorem bin_gray (b : Ptr) : bin (gray b) = b := by
  have hnone : b >>> 11 = 0 := BitVec.ushiftRight_eq_zero (Nat.le_refl 11)
  rw [bin_eq_binFrom, ← hnone, binFrom_gray]

theorem getLsbD_bin_top (g : Ptr) : (bin g).getLsbD 10 = g.getLsbD 10 := by
  have hfound := getLsbD_binFrom_add g (binStep g 0 10) 10 0 (by decide)
  rw [bin_eq_binFrom, binFrom, hfound, getLsbD_binStep_zero, BitVec.ofNat_eq_ofNat, BitVec.getLsbD_zero, Bool.false_xor]

theorem getLsbD_bin (g : Ptr) (i : Nat) (hi : i < 10) :
    (bin g).getLsbD i = xor ((bin g).getLsbD (i + 1)) (g.getLsbD i) :=
  getLsbD_binFrom g (binStep g 0 10) 10 i (Nat.le_refl 10) hi

/-! ### The step to the next pointer -/

/-- Adding 1 changes the lowest zero and every one below it: a number and its successor differ in a low mask. -/
theorem exists_xor_succ_eq_mask (n : Nat) : ∃ k, n ^^^ (n + 1) = 2 ^ (k + 1) - 1 := by
  induction n using Nat.binaryRec with
  | zero => exact ⟨0, rfl⟩
  | bit b n ih =>
    cases b with
    | false =>
      have hsucc : Nat.bit false n + 1 = Nat.bit true n := rfl
      exact ⟨0, by rw [hsucc, Nat.xor_bit, Nat.xor_self]; rfl⟩
    | true =>
      obtain ⟨k, hk⟩ := ih
      have hsucc : Nat.bit true n + 1 = Nat.bit false (n + 1) := by
        simp only [Nat.bit_val, Bool.toNat_true, Bool.toNat_false]
        omega
      refine ⟨k + 1, ?_⟩
      have hpos := Nat.two_pow_pos (k + 1)
      rw [hsucc, Nat.xor_bit, hk, Nat.pow_succ 2 (k + 1)]
      change 2 * (2 ^ (k + 1) - 1) + 1 = 2 ^ (k + 1) * 2 - 1
      omega

/-- On pointers the mask is cut at the width: the wrap from 2047 to 0 changes all 11 bits. -/
theorem exists_xor_add_one_eq_mask (b : Ptr) : ∃ k, k < 11 ∧ b ^^^ (b + 1) = BitVec.ofNat 11 (2 ^ (k + 1) - 1) := by
  obtain ⟨k, hk⟩ := exists_xor_succ_eq_mask b.toNat
  have hmask : b ^^^ (b + 1) = BitVec.ofNat 11 (2 ^ (k + 1) - 1) := by
    rw [← hk, BitVec.ofNat_xor, BitVec.ofNat_add, BitVec.ofNat_toNat, BitVec.setWidth_eq, BitVec.ofNat_eq_ofNat]
  obtain hlt | hge := Nat.lt_or_ge k 11
  · exact ⟨k, hlt, hmask⟩
  · refine ⟨10, by decide, hmask.trans (BitVec.eq_of_getLsbD_eq fun i hi => ?_)⟩
    simp only [BitVec.getLsbD_ofNat, Nat.testBit_two_pow_sub_one, hi, show i < k + 1 by omega]

/-- The code of a low mask is its top bit. -/
theorem gray_mask (k : Nat) (hk : k < 11) : gray (BitVec.ofNat 11 (2 ^ (k + 1) - 1)) = 1#11 <<< k := by
  rw [← BitVec.twoPow_eq]
  refine BitVec.eq_of_getLsbD_eq fun i hi => ?_
  simp only [getLsbD_gray, BitVec.getLsbD_ofNat, Nat.testBit_two_pow_sub_one, BitVec.getLsbD_twoPow]
  grind

theorem gray_add_one_differs_in_one_bit (b : Ptr) : ∃ i, i < 11 ∧ gray b ^^^ gray (b + 1) = 1#11 <<< i := by
  obtain ⟨k, hk, hmask⟩ := exists_xor_add_one_eq_mask b
  exact ⟨k, hk, by rw [gray_xor, hmask, gray_mask k hk]⟩

/-! ### The statement -/

/-- Settles O23: the inverse undoes the code step by step of its scan, and the bits in which two neighbours differ form
a low mask, whose code is one bit. -/
theorem grayCodeInvertsAndStepsOneBit : Obligations.GrayCodeInvertsAndStepsOneBit := by
  unfold Obligations.GrayCodeInvertsAndStepsOneBit
  exact ⟨fun b => ⟨rfl, bin_gray b, gray_add_one_differs_in_one_bit b⟩,
    fun g => ⟨getLsbD_bin_top g, getLsbD_bin g⟩, by decide⟩

end Sys2Proof.Machine
end

section
/-! PROOFS. The sink request as an equation per case (R129 to R133, R90), STATUS bit 6 (R46), when the consumer runs and
which slot it reads under the invariant, and the statements about the three kinds of answer: O30, O31 and O32. -/

namespace Sys2Proof.Machine

open Sys2Proof

/-! ### Bad requests -/

theorem exec_sinkReq_of_ne {len : BitVec 28} {s : State} (h : len.toNat ≠ s.params.fblen) :
    exec (.sinkReq len) s = .next (badRequest len.toNat s) :=
  if_pos h

theorem decodeRequest_of_op_ne {w : Word} (h : w.toNat / 2 ^ 28 ≠ 8) : decodeRequest w = .reject .notSinkReq := by
  have hop : opField w ≠ 0x8#4 := fun e => h (by rw [← opField_toNat, e]; rfl)
  exact if_neg hop

theorem sink_of_reject {s : State} {w : Word} {r : Reject} (hreq : s.env.req = some w)
    (hdec : decodeRequest w = .reject r) :
    perform .sink s = .next (badRequest (w.toNat % 2 ^ 28) { s with env.req := none }) := by
  simp only [perform, stepSink, hreq, hdec, lenOf, payloadField_toNat]

/-- DIAG is bit 6 of STATUS (R46). -/
theorem getLsbD_statusWord_six (p : Producer) : (statusWord p).getLsbD 6 = p.diagSeen := by
  rw [statusWord]
  simp only [BitVec.getLsbD_append]
  simp [flagBit]

/-! ### Well-formed requests -/

theorem exec_sinkReq_of_eq {len : BitVec 28} {s : State} (h : len.toNat = s.params.fblen) :
    exec (.sinkReq len) s = serveRequest s :=
  if_neg (not_not.2 h)

theorem countC_eq_zero_iff (s : State) : s.countC = 0 ↔ s.c.wrSeen = s.c.rdCnt := by
  rw [State.countC, ptrDist, ← BitVec.toNat_inj, BitVec.toNat_sub]
  omega

theorem serveRequest_stopped {s : State} (h : s.c.ackC = false) :
    serveRequest s = .next (s.emit (.silence s.params.fblen)) :=
  if_pos h

theorem serveRequest_underrun {s : State} (hack : s.c.ackC = true) (hcount : s.countC = 0) :
    serveRequest s = .next (s.emit (.silence s.params.fblen)) := by
  have hconsume : consume s = .empty := if_pos hcount
  simp [serveRequest, hack, hconsume]

theorem serveRequest_data {s : State} (hack : s.c.ackC = true) (hcount : s.countC ≠ 0)
    (hslot : s.c.readIndex.toNat < s.params.maxCapImpl) :
    serveRequest s = .next ((release s).emit (.buffer (s.slotFrames s.c.readIndex.toNat))) := by
  simp [serveRequest, hack, consume_slot hcount hslot]

/-! ### The consumer under the invariant -/

theorem ackC_of_shut {s : State} (hinv : s.Inv) (heng : s.p.eng ≠ .opened) (hphase : s.p.phase ≠ .opening) :
    s.c.ackC = false := by
  obtain ⟨-, hack, -⟩ := hinv.shutStill ⟨heng, hphase⟩
  exact hack

theorem ackC_of_disabled {s : State} (hinv : s.Inv) (hdis : s.p.disabled = true) : s.c.ackC = false := by
  obtain ⟨hphase, heng⟩ := hinv.disabledShut hdis
  exact ackC_of_shut hinv (by rcases heng with h | h <;> simp [h]) (by simp [hphase])

/-- A running consumer has an engine that is open or opening, and so a capacity (R19). -/
theorem capacity_ne_zero_of_ackC {s : State} (hinv : s.Inv) (hack : s.c.ackC = true) : s.p.capacity ≠ 0 := by
  refine hinv.capOpen ?_
  by_contra hshut
  obtain ⟨heng, hphase⟩ := not_or.1 hshut
  simp [ackC_of_shut hinv heng hphase] at hack

theorem readIndex_lt_capacity {s : State} (hinv : s.Inv) (hcap : s.p.capacity ≠ 0) :
    s.c.readIndex.toNat < s.p.capacity.toNat := by
  have hread := hinv.readIndexIn
  rwa [if_neg hcap] at hread

theorem capacity_le_maxCapImpl {s : State} (hinv : s.Inv) (hcap : s.p.capacity ≠ 0) :
    s.p.capacity.toNat ≤ s.params.maxCapImpl := by
  obtain ⟨-, hfits⟩ := hinv.capRange.resolve_left hcap
  exact hfits

theorem nextIndex_eq_ofNat {x c : Ptr} (hx : x.toNat < c.toNat) :
    nextIndex x c = BitVec.ofNat 11 ((x.toNat + 1) % c.toNat) := by
  rw [← nextIndex_toNat hx, BitVec.ofNat_toNat, BitVec.setWidth_eq]

/-! ### The statements -/

/-- Settles O30: both kinds of bad request run `badRequest`, whose answer and flag these are; DIAG is the view's bit. -/
theorem badRequestIsZeroedAndFlagged : Obligations.BadRequestIsZeroedAndFlagged := by
  unfold Obligations.BadRequestIsZeroedAndFlagged
  intro s
  refine ⟨fun len hlen => exec_sinkReq_of_ne hlen, fun w hreq hop => sink_of_reject hreq (decodeRequest_of_op_ne hop),
    fun n => rfl, fun hdiag => ⟨hdiag, ?status⟩⟩
  case status => rw [getLsbD_statusWord_six, syncDiag_p, hdiag]

/-- Settles O31: `ack_c` and then `count_c` decide between silence and data. -/
theorem stoppedOrEmptyGivesSilence : Obligations.StoppedOrEmptyGivesSilence := by
  unfold Obligations.StoppedOrEmptyGivesSilence
  intro len s hlen
  rw [exec_sinkReq_of_eq hlen]
  exact ⟨serveRequest_stopped, ackC_of_shut, ackC_of_disabled,
    fun hack hempty => serveRequest_underrun hack ((countC_eq_zero_iff s).2 hempty)⟩

/-- Settles O32: a running consumer has a capacity, so its slot lies in the RAM and its index steps modulo the capacity;
the update is `release`, with the gray code (R120) and the addresses (R58) written out. -/
theorem dataIsVerbatimThenReleased : Obligations.DataIsVerbatimThenReleased := by
  unfold Obligations.DataIsVerbatimThenReleased
  intro len s hinv hlen hack hdata
  have hcap := capacity_ne_zero_of_ackC hinv hack
  have hread := readIndex_lt_capacity hinv hcap
  have hslot := hread.trans_le (capacity_le_maxCapImpl hinv hcap)
  have hcount : s.countC ≠ 0 := mt (countC_eq_zero_iff s).1 hdata
  rw [exec_sinkReq_of_eq hlen, serveRequest_data hack hcount hslot, ← nextIndex_eq_ofNat hread]
  rfl

end Sys2Proof.Machine
end

section
/-! PROOFS. NOP as an equation (R138), OPEN as an equation per case (R140 to R144, R149), the commands in FAULT, where a
step can take the lifecycle state, and the statements about NOP, the rejected OPENs and FAULT: O36, O37, O38 and O46. -/

namespace Sys2Proof.Machine

open Sys2Proof

/-! ### NOP -/

theorem exec_nop (s : State) : exec .nop s = .next { s with p.rsp := some { data := 0, code := .ok } } := rfl

/-- A word with opcode 0 is its own payload, so only the zero word is a NOP (R81). -/
theorem decodeCommand_of_op_zero {w : Word} (hop : w.toNat / 2 ^ 28 = 0) (hw : w ≠ 0) :
    decodeCommand w = .reject .reservedBits := by
  have hopField : opField w = 0x0#4 := BitVec.eq_of_toNat_eq ((opField_toNat w).trans hop)
  have hpayload : payloadField w ≠ 0#28 := by
    intro hzero
    have hlow : w.toNat % 2 ^ 28 = 0 := by rw [← payloadField_toNat, hzero]; rfl
    exact hw (BitVec.eq_of_toNat_eq (by change w.toNat = 0; omega))
  rw [decodeCommand, if_pos hopField, if_neg hpayload]

/-! ### OPEN, an equation per case -/

theorem not_fault_not_opened_of_shut {e : EngState} (h : e = .uninit ∨ e = .closed) : e ≠ .fault ∧ e ≠ .opened := by
  rcases h with rfl | rfl <;> decide

theorem exec_open_ignored {noDev : Bool} {req : BitVec 24} {s : State} (hfault : s.p.eng ≠ .fault)
    (hignored : s.p.eng = .opened ∨ s.p.disabled = true) :
    exec (.openEngine noDev req) s = .next { s with p.rsp := some { data := 0, code := .ignored } } := by
  simp only [exec, execOpen, if_neg hfault, if_pos hignored, done, State.respond]

/-- The checks of R153 that are left for an engine that is shut and not disabled. -/
theorem exec_open_of_shut {noDev : Bool} {req : BitVec 24} {s : State} (hshut : s.p.eng = .uninit ∨ s.p.eng = .closed)
    (hdis : s.p.disabled = false) :
    exec (.openEngine noDev req) s =
      if noDev then done { s with p.disabled := true } 0 .ok
      else if s.params.maxCapImpl < clampCap req.toInt then .next (enterFault .alloc s)
      else if s.env.devOk = false then .next (enterFault .dev s)
      else .next (openSuccess (clampCap req.toInt) s) := by
  obtain ⟨hfault, hopen⟩ := not_fault_not_opened_of_shut hshut
  have hopens : ¬ (s.p.eng = .opened ∨ s.p.disabled = true) := by simp [hopen, hdis]
  exact (if_neg hfault).trans (if_neg hopens)

theorem clampCap_le_capMax (r : Int) : clampCap r ≤ capMax := by
  simp only [clampCap, capMax]
  omega

/-! ### The commands in FAULT -/

theorem exec_open_of_fault {noDev : Bool} {req : BitVec 24} {s : State} (h : s.p.eng = .fault) :
    exec (.openEngine noDev req) s = .next { s with p.rsp := some { data := 0, code := .faulted } } :=
  if_pos h

theorem exec_close_of_fault {s : State} (h : s.p.eng = .fault) :
    exec .closeEngine s = .next { s with p.rsp := some { data := 0, code := .faulted } } :=
  if_pos h

theorem exec_advance_of_fault {cycles : BitVec 28} {s : State} (h : s.p.eng = .fault) :
    exec (.advance cycles) s = .next { s with p.rsp := some { data := 0, code := .faulted } } :=
  if_pos h

/-- Every index that the decoder lets through names a CSR (R42, R54). -/
theorem csrValue_defined {idx : BitVec 8} (h : idx ≤ lastCsr) (s : State) : ∃ v, csrValue idx s = some v := by
  have hle : idx.toNat ≤ 0x0A := h
  unfold csrValue
  generalize idx.toNat = n at hle ⊢
  interval_cases n <;> exact ⟨_, rfl⟩

/-- No command is in progress in FAULT: an OPEN or CLOSE that waits has another lifecycle state. -/
theorem phase_of_fault {s : State} (hinv : s.Inv) (heng : s.p.eng = .fault) :
    s.p.phase ≠ .opening ∧ s.p.phase ≠ .closing := by
  constructor
  · intro hphase
    obtain ⟨hfault, -⟩ := not_fault_not_opened_of_shut (hinv.openingShut hphase)
    exact hfault heng
  · intro hphase
    have hopen := hinv.busyOpen (.inr hphase)
    simp [heng] at hopen

/-! ### Where a step can take the lifecycle state -/

/-- An instruction moves `eng_state` only into FAULT, by an OPEN of a shut engine (R141, R142). -/
theorem exec_eng {i : Instr} {s t : State} (h : exec i s = .next t) :
    t.p.eng = s.p.eng ∨ ((s.p.eng = .uninit ∨ s.p.eng = .closed) ∧ t.p.eng = .fault) := by
  cases i with
  | nop => cases h; exact .inl rfl
  | openEngine noDev req =>
    obtain ⟨-, rfl⟩ | ⟨-, rfl⟩ | ⟨hshut, -, hopen⟩ := execOpen_cases h
    · exact .inl rfl
    · exact .inl rfl
    · obtain ⟨-, rfl⟩ | ⟨-, -, rfl⟩ | ⟨-, -, -, rfl⟩ | ⟨-, -, -, rfl⟩ := hopen
      · exact .inl rfl
      · exact .inr ⟨hshut, rfl⟩
      · exact .inr ⟨hshut, rfl⟩
      · exact .inl rfl
  | closeEngine => obtain ⟨-, rfl⟩ | ⟨-, -, rfl⟩ | ⟨-, rfl⟩ := execClose_cases h <;> exact .inl rfl
  | advance cycles => obtain ⟨-, rfl⟩ | ⟨-, -, rfl⟩ | ⟨-, rfl⟩ := execAdvance_cases h <;> exact .inl rfl
  | csrRead idx => obtain ⟨v, -, rfl⟩ | ⟨-, rfl⟩ := execCsrRead_cases h <;> exact .inl rfl
  | sinkReq len =>
    obtain ⟨-, rfl⟩ | ⟨-, h⟩ := execSinkReq_cases h
    · exact .inl rfl
    · obtain ⟨-, rfl⟩ | ⟨-, -, ws, -, rfl⟩ := serveRequest_cases h <;> exact .inl rfl

theorem stepTrigger_eng {s t : State} (h : stepTrigger s = .next t) : t.p.eng = s.p.eng := by
  obtain ⟨-, -, u, hu, rfl⟩ | ⟨-, rfl⟩ := stepTrigger_cases h
  · obtain ⟨-, m, -, rfl⟩ | ⟨-, rfl⟩ := trigger_cases hu <;> rfl
  · rfl

@[simp] theorem syncRd_eng (n : Nat) (s : State) : (syncRd n s).p.eng = s.p.eng := by
  unfold syncRd
  split_ifs <;> rfl

@[simp] theorem syncWr_p (n : Nat) (s : State) : (syncWr n s).p = s.p := by
  unfold syncWr
  split_ifs <;> rfl

/-- The edges of the lifecycle: reset, a fatal OPEN, and the completions of the two handshakes (R15). -/
theorem perform_eng {m : Move} {s t : State} (h : perform m s = .next t) :
    t.p.eng = s.p.eng ∨ (moveIsReset m = true ∧ t.p.eng = .uninit) ∨
    ((s.p.eng = .uninit ∨ s.p.eng = .closed) ∧ t.p.eng = .fault) ∨
    (s.p.phase = .opening ∧ t.p.eng = .opened) ∨ (s.p.phase = .closing ∧ t.p.eng = .closed) := by
  cases m with
  | accept =>
    obtain rfl | ⟨-, w, -, ⟨i, -, h⟩ | ⟨r, -, rfl⟩⟩ := stepAccept_cases h
    · exact .inl rfl
    · exact (exec_eng h).imp_right fun hfault => .inr (.inl hfault)
    · exact .inl rfl
  | sink =>
    obtain ⟨-, rfl⟩ | ⟨w, -, ⟨i, -, h⟩ | ⟨r, -, rfl⟩⟩ := stepSink_cases h
    · exact .inl rfl
    · exact (exec_eng h).imp_right fun hfault => .inr (.inl hfault)
    · exact .inl rfl
  | finishHandshake =>
    cases h
    obtain ⟨hphase, -, e⟩ | ⟨hphase, -, -, e⟩ | e := stepFinishHandshake_cases s <;> rw [e]
    · exact .inr (.inr (.inr (.inl ⟨hphase, rfl⟩)))
    · exact .inr (.inr (.inr (.inr ⟨hphase, rfl⟩)))
    · exact .inl rfl
  | reset cut => cases h; exact .inr (.inl ⟨rfl, rfl⟩)
  | trigger => exact .inl (stepTrigger_eng h)
  | finishAdvance => cases h; obtain ⟨-, -, e⟩ | e := stepFinishAdvance_cases s <;> rw [e] <;> exact .inl rfl
  | start => cases h; obtain ⟨-, -, -, e⟩ | e := stepStart_cases s <;> rw [e] <;> exact .inl rfl
  | stop => cases h; obtain ⟨-, -, e⟩ | e := stepStop_cases s <;> rw [e] <;> exact .inl rfl
  | hostDrive cmd => obtain rfl | rfl := driveCommand_cases h <;> exact .inl rfl
  | deviceDrive req => obtain rfl | rfl := driveRequest_cases h <;> exact .inl rfl
  | sourceDeliver k frames => cases h; cases k <;> exact .inl rfl
  | syncRd n => cases h; exact .inl (syncRd_eng n s)
  | syncWr n => cases h; exact .inl (by rw [syncWr_p])
  | hostTake | platform devOk devRate | syncRun | syncAck | syncDiag => cases h; exact .inl rfl
  | crossingViolation | ramOrderViolation => cases h

/-- FAULT is entered only from UNINIT or CLOSED (R141, R142). -/
theorem shut_of_perform_enters_fault {m : Move} {s t : State} (hs : s.p.eng ≠ .fault) (h : perform m s = .next t)
    (ht : t.p.eng = .fault) : s.p.eng = .uninit ∨ s.p.eng = .closed := by
  obtain e | ⟨-, e⟩ | ⟨hshut, -⟩ | ⟨-, e⟩ | ⟨-, e⟩ := perform_eng h
  · exact absurd (e.symm.trans ht) hs
  · simp [e] at ht
  · exact hshut
  · simp [e] at ht
  · simp [e] at ht

/-- Only reset leaves FAULT (R155). -/
theorem perform_keeps_fault {m : Move} {s t : State} (hinv : s.Inv) (heng : s.p.eng = .fault)
    (hm : moveIsReset m = false) (h : perform m s = .next t) : t.p.eng = .fault := by
  obtain ⟨hopening, hclosing⟩ := phase_of_fault hinv heng
  obtain e | ⟨hreset, -⟩ | ⟨-, e⟩ | ⟨hphase, -⟩ | ⟨hphase, -⟩ := perform_eng h
  · exact e.trans heng
  · simp [hm] at hreset
  · exact e
  · exact absurd hphase hopening
  · exact absurd hphase hclosing

/-! ### The statements -/

/-- Settles O36: NOP is one response, and the payload check of R88 rejects every other word of its opcode. -/
theorem nopOnlyAnswers : Obligations.NopOnlyAnswers := by
  unfold Obligations.NopOnlyAnswers
  exact ⟨exec_nop, rfl, fun w hop hw => decodeCommand_of_op_zero hop hw⟩

/-- Settles O37: OPEN or disabled is the second check of R153, and NONE the third. -/
theorem openIsIgnoredOrDisables : Obligations.OpenIsIgnoredOrDisables := by
  unfold Obligations.OpenIsIgnoredOrDisables
  refine ⟨fun noDev req s hignored => ?ignored, fun req s hshut hdis => exec_open_of_shut hshut hdis⟩
  case ignored =>
    rcases hignored with hopen | ⟨hdis, hshut⟩
    · exact exec_open_ignored (by simp [hopen]) (.inl hopen)
    · exact exec_open_ignored (not_fault_not_opened_of_shut hshut).left (.inr hdis)

/-- Settles O38: the capacity is checked before the device, and the clamp bounds it by CAP_MAX. -/
theorem fatalOpensEnterFault : Obligations.FatalOpensEnterFault := by
  unfold Obligations.FatalOpensEnterFault
  refine ⟨fun req s hshut hdis hcap => ?alloc, fun req => not_lt.2 (clampCap_le_capMax _),
    fun req s hshut hdis hcap hdev => ?dev⟩
  case alloc => exact (exec_open_of_shut hshut hdis).trans (if_pos hcap)
  case dev => exact (exec_open_of_shut hshut hdis).trans ((if_neg (not_lt.2 hcap)).trans (if_pos hdev))

/-- Settles O46: FAULT is the first check of the three lifecycle commands, its consumer is stopped, and the edges of the
lifecycle say how it is entered and left. -/
theorem faultStateOnlyAnswers : Obligations.FaultStateOnlyAnswers := by
  unfold Obligations.FaultStateOnlyAnswers
  intro s hinv heng
  obtain ⟨hopening, -⟩ := phase_of_fault hinv heng
  refine ⟨fun noDev req => exec_open_of_fault heng, exec_close_of_fault heng,
    fun cycles => exec_advance_of_fault heng, exec_nop s, fun idx hidx => ?csr,
    fun w r hcmd hready hdec => accept_of_reject hcmd hready hdec, fun len hlen => ?silence, decide_eq_true heng,
    fun m u v hu hstep hv => shut_of_perform_enters_fault hu hstep hv,
    fun m t hm hstep => perform_keeps_fault hinv heng hm hstep⟩
  case csr =>
    obtain ⟨v, hv⟩ := csrValue_defined hidx s
    exact ⟨v, hv, exec_csrRead_of_some hv⟩
  case silence =>
    rw [exec_sinkReq_of_eq hlen]
    exact serveRequest_stopped (ackC_of_shut hinv (by simp [heng]) hopening)

end Sys2Proof.Machine
end

section
/-! PROOFS. Distances on the pointer circle (R128), and the three kinds of state that the invariant admits: shut, live, and
inside a CLOSE window (R38). -/

namespace Sys2Proof.Machine

open Sys2Proof

/-! ### Distances on the pointer circle -/

/-- A pointer on the way from `c` to `a` splits the way in two. -/
theorem ptrDist_split {a b c : Ptr} (h : ptrDist b c ≤ ptrDist a c) : ptrDist a c = ptrDist a b + ptrDist b c := by
  rw [ptrDist_eq, ptrDist_eq] at h
  rw [ptrDist_eq, ptrDist_eq, ptrDist_eq]
  omega

theorem ptrDist_add {a b c : Ptr} (h : ptrDist a b + ptrDist b c < 2048) :
    ptrDist a c = ptrDist a b + ptrDist b c := by
  rw [ptrDist_eq, ptrDist_eq] at h
  rw [ptrDist_eq, ptrDist_eq, ptrDist_eq]
  omega

theorem ptrDist_sub {a b c : Ptr} (h : ptrDist a b ≤ ptrDist a c) : ptrDist b c = ptrDist a c - ptrDist a b := by
  rw [ptrDist_eq, ptrDist_eq] at h
  rw [ptrDist_eq, ptrDist_eq, ptrDist_eq]
  omega

theorem ptrDist_add_one_left {a b : Ptr} (h : ptrDist a b < 2047) : ptrDist (a + 1) b = ptrDist a b + 1 := by
  rw [ptrDist_eq] at h
  have hsucc : (a + 1).toNat = (a.toNat + 1) % 2048 := BitVec.toNat_add a 1
  rw [ptrDist_eq, ptrDist_eq, hsucc]
  omega

theorem ptrDist_add_one_right {a b : Ptr} (h : ptrDist a b ≠ 0) : ptrDist a (b + 1) = ptrDist a b - 1 := by
  rw [ptrDist_eq] at h
  have hsucc : (b + 1).toNat = (b.toNat + 1) % 2048 := BitVec.toNat_add b 1
  rw [ptrDist_eq, ptrDist_eq, hsucc]
  omega

/-- A view that moves forward leaves that much less of the way to its pointer. -/
theorem ptrDist_forward_right (seen x : Ptr) (n : Nat) :
    ptrDist x (forward seen x n) = ptrDist x seen - min n (ptrDist x seen) := by
  have hle := Nat.min_le_right n (ptrDist x seen)
  have hlt := ptrDist_lt x seen
  rw [ptrDist_eq x (forward _ _ _), forward_toNat]
  generalize min n (ptrDist x seen) = k at hle ⊢
  rw [ptrDist_eq] at hle hlt ⊢
  omega

theorem forward_zero (seen x : Ptr) : forward seen x 0 = seen := by
  simp [forward]

theorem forward_self (x : Ptr) (n : Nat) : forward x x n = x := by
  simp [forward]

/-- As far forward as a distance can be is up to the pointer. -/
theorem forward_all (seen x : Ptr) : forward seen x 2047 = x := by
  have hlt := ptrDist_lt x seen
  apply BitVec.eq_of_toNat_eq
  rw [forward_toNat, Nat.min_eq_right (by omega), ptrDist_eq]
  omega

/-! ### The three kinds of state -/

/-- An engine that is open runs its consumer, or it is closing and the consumer has stopped: a CLOSE window (R38). -/
theorem State.Inv.live_or_window {s : State} (hinv : s.Inv) (heng : s.p.eng = .opened) :
    s.live ∨ s.closeWindow = true := by
  cases hack : s.c.ackC with
  | true => exact .inl ⟨heng, hack⟩
  | false =>
    refine .inr ?_
    by_contra hwindow
    have hphase : s.p.phase ≠ .closing := by simpa [State.closeWindow, hack] using hwindow
    obtain ⟨-, hruns, -⟩ := hinv.openRuns ⟨heng, hphase⟩
    simp [hruns] at hack

theorem closeWindow_eq_true_iff (s : State) : s.closeWindow = true ↔ s.p.phase = .closing ∧ s.c.ackC = false := by
  simp [State.closeWindow]

theorem not_closeWindow_of_ackC {s : State} (hack : s.c.ackC = true) : s.closeWindow = false := by
  simp [State.closeWindow, hack]

theorem not_closeWindow_of_phase {s : State} (hphase : s.p.phase ≠ .closing) : s.closeWindow = false := by
  simp [State.closeWindow, hphase]

/-- A running consumer belongs to an open engine or to one that is opening, where nothing is published yet. -/
theorem State.Inv.live_of_data {s : State} (hinv : s.Inv) (hack : s.c.ackC = true) (hdata : s.countC ≠ 0) : s.live := by
  refine ⟨?_, hack⟩
  by_contra heng
  obtain ⟨-, hrd, -, -, -, -, -, hseen⟩ := hinv.shutPointers heng
  exact hdata ((countC_eq_zero_iff s).2 ((hseen hack).trans hrd.symm))

end Sys2Proof.Machine
end

section
/-! PROOFS. What each command, request, trigger, completion, start, stop and synchronizer step needs to keep the invariant,
and the statements that rest on it: O54, O55 and O56. -/

namespace Sys2Proof.Machine

open Sys2Proof

/-! ### Commands keep the invariant -/

theorem State.Inv.respond {s : State} (hinv : s.Inv) (hidle : s.p.phase = .idle) (d : Word) (k : RspCode) :
    (s.respond d k).Inv :=
  { hinv with rspIdle := fun _ => hidle }

theorem State.Inv.takeIllegal {s : State} (hinv : s.Inv) (hidle : s.p.phase = .idle) : (takeIllegal s).Inv :=
  { hinv with rspIdle := fun _ => hidle }

theorem State.Inv.disable {s : State} (hinv : s.Inv) (hidle : s.p.phase = .idle)
    (hshut : s.p.eng = .uninit ∨ s.p.eng = .closed) : State.Inv { s with p.disabled := true } :=
  { hinv with disabledShut := fun _ => ⟨hidle, hshut⟩ }

/-- R154: the cause bit and the lifecycle state are written together, and a shut engine has no cause bit yet. -/
theorem State.Inv.enterFault {s : State} (hinv : s.Inv) (hidle : s.p.phase = .idle)
    (hshut : s.p.eng = .uninit ∨ s.p.eng = .closed) (hdis : s.p.disabled = false) (cause : FatalCause) :
    (enterFault cause s).Inv := by
  obtain ⟨hfault, hopen⟩ := not_fault_not_opened_of_shut hshut
  obtain ⟨halloc, hdev⟩ := not_or.1 (mt hinv.causeFault.2 hfault)
  have hstill := hinv.shutStill ⟨hopen, by simp [hidle]⟩
  have hpointers := hinv.shutPointers hopen
  have hrun : ¬ s.p.runP = true := mt hinv.runWhen.1 (by simp [hidle, hopen])
  cases cause
  all_goals exact { hinv with
    rspIdle := fun _ => hidle
    busyOpen := by simp [hidle]
    openingShut := by simp [hidle]
    causeFault := by simp
    oneCause := by simp [halloc, hdev]
    disabledShut := by simp [hdis]
    capOpen := by simp [hidle]
    runWhen := by simpa [hidle] using hrun
    shutStill := fun _ => hstill
    openRuns := by simp
    shutPointers := fun _ => hpointers
    livePointers := by simp [State.live] }

theorem clampCap_range (r : Int) : 3 ≤ clampCap r ∧ clampCap r ≤ 1024 := by
  simp only [clampCap, capMin, capMax]
  omega

theorem clampCap_toNat (r : Int) : (BitVec.ofNat 11 (clampCap r)).toNat = clampCap r := by
  obtain ⟨-, hmax⟩ := clampCap_range r
  rw [BitVec.toNat_ofNat, Nat.mod_eq_of_lt (by omega)]

theorem gray_zero : gray 0 = 0 := by decide

/-- Index 0 is in the range of R22 and R31, whatever the capacity. -/
theorem zero_index_in (c : Ptr) : if c = 0 then (0 : Ptr) = 0 else (0 : Ptr).toNat < c.toNat := by
  split_ifs with h
  · rfl
  · exact Nat.pos_of_ne_zero fun hzero => h (BitVec.eq_of_toNat_eq hzero)

theorem maxCapImpl_le {q : Params} (h : q.legal = true) : q.maxCapImpl ≤ 1024 := by
  simp only [Params.legal, Bool.and_eq_true, decide_eq_true_eq] at h
  omega

theorem thresh_pos {q : Params} (h : q.legal = true) : 0 < q.thresh := by
  simp only [Params.legal, Bool.and_eq_true, decide_eq_true_eq] at h
  exact Nat.mul_pos (by omega) (by omega)

/-- R143: a shut engine has both pointers at 0 and a stopped consumer, from which the handshake rises. -/
theorem State.Inv.openSuccess {s : State} (hinv : s.Inv) (hrsp : s.p.rsp = none)
    (hshut : s.p.eng = .uninit ∨ s.p.eng = .closed) (hidle : s.p.phase = .idle) (hdis : s.p.disabled = false) {r : Int}
    (hfits : clampCap r ≤ s.params.maxCapImpl) : (openSuccess (clampCap r) s).Inv := by
  obtain ⟨-, hopen⟩ := not_fault_not_opened_of_shut hshut
  obtain ⟨hmin, -⟩ := clampCap_range r
  have hcap : (BitVec.ofNat 11 (clampCap r)).toNat = clampCap r := clampCap_toNat r
  have hcap0 : BitVec.ofNat 11 (clampCap r) ≠ 0 := fun e => by
    have hzero := congrArg BitVec.toNat e
    rw [hcap] at hzero
    simp at hzero
    omega
  obtain ⟨hdiv, -, -⟩ := legal_bounds_stage1 hinv.legal
  obtain ⟨hrun, hack, hackSeen⟩ := hinv.shutStill ⟨hopen, by simp [hidle]⟩
  obtain ⟨-, hrd, -, hread, hrdSeen, hrdJump, -, -⟩ := hinv.shutPointers hopen
  exact { hinv with
    rspIdle := by simp [hrsp]
    busyOpen := by simp
    openingShut := fun _ => hshut
    disabledShut := by simp [hdis]
    capRange := .inr (by simp only [openSuccess_p, openSuccess_params, hcap]; omega)
    capOpen := fun _ => hcap0
    runWhen := by simp
    shutStill := by simp
    openingOrder := by simp [hack, hackSeen]
    openRuns := by simp [hopen]
    closingOrder := by simp
    wrGrayed := gray_zero.symm
    writeIndexIn := zero_index_in _
    readIndexIn := by rw [openSuccess_c, hread]; exact zero_index_in _
    shutPointers := fun _ => ⟨rfl, hrd, rfl, hread, hrdSeen, hrdJump, by simp, by simp [hack]⟩
    livePointers := by simp [State.live, hopen]
    windowPointers := by simp [closeWindow_eq_true_iff]
    cpuBound := hdiv
    audBound := fun _ => thresh_pos hinv.legal }

/-- R146: an open engine has completed the rising half of its handshake, from which it falls. -/
theorem State.Inv.closeSequence {s : State} (hinv : s.Inv) (hrsp : s.p.rsp = none) (hopen : s.p.eng = .opened)
    (hidle : s.p.phase = .idle) : (closeSequence s).Inv := by
  obtain ⟨-, hack, hackSeen⟩ := hinv.openRuns ⟨hopen, by simp [hidle]⟩
  have hdis : ¬ s.p.disabled = true := fun hdis => by
    obtain ⟨-, hshut⟩ := hinv.disabledShut hdis
    simp [hopen] at hshut
  have haud := hinv.audBound (by simp [hidle])
  exact { hinv with
    rspIdle := by simp [hrsp]
    busyOpen := fun _ => hopen
    openingShut := by simp
    disabledShut := fun h => absurd h hdis
    capOpen := fun _ => hinv.capOpen (.inl hopen)
    runWhen := by simp
    shutStill := by simp [hopen]
    openingOrder := by simp
    openRuns := by simp
    closingOrder := by simp [hack, hackSeen]
    windowPointers := by simp [closeWindow_eq_true_iff, hack]
    audBound := fun _ => haud }

/-- R94, R95: stage 1 leaves a remainder in `cpu_acc`; `aud_acc` is bounded again once the loop is over. -/
theorem State.Inv.beginAdvance {s : State} (hinv : s.Inv) (hrsp : s.p.rsp = none) (hopen : s.p.eng = .opened)
    (hidle : s.p.phase = .idle) (n : Nat) :
    State.Inv { stage1 n s with p.advTrigs := 0, p.phase := .advancing } := by
  obtain ⟨hdiv, -, -⟩ := legal_bounds_stage1 hinv.legal
  have hruns := hinv.openRuns ⟨hopen, by simp [hidle]⟩
  have hdis : ¬ s.p.disabled = true := fun hdis => by
    obtain ⟨-, hshut⟩ := hinv.disabledShut hdis
    simp [hopen] at hshut
  exact { hinv with
    rspIdle := by simp [hrsp]
    busyOpen := fun _ => hopen
    openingShut := by simp
    disabledShut := fun h => absurd h hdis
    capOpen := fun _ => hinv.capOpen (.inl hopen)
    runWhen := by simpa [hidle] using hinv.runWhen
    shutStill := by simp [hopen]
    openingOrder := by simp
    openRuns := fun _ => hruns
    closingOrder := by simp
    windowPointers := by simp [closeWindow_eq_true_iff]
    cpuBound := (stage1_cpuAcc_toNat hinv.legal).trans_lt (Nat.mod_lt _ hdiv)
    audBound := by simp }

/-! ### Sink requests keep the invariant -/

theorem State.Inv.badRequest {s : State} (hinv : s.Inv) (n : Nat) : (badRequest n s).Inv :=
  { hinv with diagLags := fun _ => rfl }

/-- R118: the released slot leaves the fill level and the consumer's view one less, and the index one further. -/
theorem State.Inv.release {s : State} (hinv : s.Inv) (hack : s.c.ackC = true) (hdata : s.countC ≠ 0) :
    (release s).Inv := by
  have hlive := hinv.live_of_data hack hdata
  have hcap := capacity_ne_zero_of_ackC hinv hack
  have hread := readIndex_lt_capacity hinv hcap
  obtain ⟨hrdJump, hwrJump, hfull, hrd, hwr, hindex⟩ := hinv.livePointers hlive
  have hsplit : s.countP = ptrDist s.p.wrCnt s.c.rdCnt + ptrDist s.c.rdCnt s.p.rdSeen := ptrDist_split hrd
  have hcountC : (Machine.release s).countC = s.countC - 1 := ptrDist_add_one_right hdata
  have hcount : ptrDist s.p.wrCnt (s.c.rdCnt + 1) = ptrDist s.p.wrCnt s.c.rdCnt - 1 := ptrDist_add_one_right (by omega)
  have hmax := capacity_le_maxCapImpl hinv hcap
  have hview : ptrDist (s.c.rdCnt + 1) s.p.rdSeen = ptrDist s.c.rdCnt s.p.rdSeen + 1 :=
    ptrDist_add_one_left (by have := maxCapImpl_le hinv.legal; omega)
  exact { hinv with
    rdGrayed := rfl
    readIndexIn := by
      rw [release_p, release_c, if_neg hcap, nextIndex_toNat hread]
      exact Nat.mod_lt _ (by omega)
    shutPointers := fun hshut => absurd hlive.1 hshut
    livePointers := fun _ => by
      refine ⟨hrdJump, hwrJump, hfull, ?_, ?_, ?_⟩
      · change ptrDist (s.c.rdCnt + 1) s.p.rdSeen ≤ s.countP
        omega
      · change (Machine.release s).countC ≤ ptrDist s.p.wrCnt (s.c.rdCnt + 1)
        omega
      · change s.p.writeIndex.toNat =
          ((nextIndex s.c.readIndex s.p.capacity).toNat + ptrDist s.p.wrCnt (s.c.rdCnt + 1)) % s.p.capacity.toNat
        rw [hindex, nextIndex_toNat hread, hcount, Nat.mod_add_mod]
        congr 1
        omega
    windowPointers := fun hwindow => by
      obtain ⟨-, hstopped⟩ := (closeWindow_eq_true_iff _).1 hwindow
      simp [hack] at hstopped }


/-! ### Triggers keep the invariant -/

theorem State.Inv.takeThresh {s : State} (hinv : s.Inv) (hphase : s.p.phase = .advancing) : (takeThresh s).Inv :=
  { hinv with audBound := fun h => absurd hphase h }

theorem State.Inv.countTrigger {s : State} (hinv : s.Inv) : (countTrigger s).Inv := { hinv with }

theorem State.Inv.live_of_advancing {s : State} (hinv : s.Inv) (hphase : s.p.phase = .advancing) : s.live := by
  have hopen := hinv.busyOpen (.inl hphase)
  obtain ⟨-, hack, -⟩ := hinv.openRuns ⟨hopen, by simp [hphase]⟩
  exact ⟨hopen, hack⟩

theorem writeIndex_lt_capacity {s : State} (hinv : s.Inv) (hcap : s.p.capacity ≠ 0) :
    s.p.writeIndex.toNat < s.p.capacity.toNat := by
  have hwrite := hinv.writeIndexIn
  rwa [if_neg hcap] at hwrite

/-- R111, R117: a publish within the reservation leaves the fill level and the producer's view one more, and the index
one further; the words it stores lie in slot `writeIndex`. -/
theorem State.Inv.publish {s : State} (hinv : s.Inv) (hlive : s.live) (hphase : s.p.phase = .advancing)
    (hroom : tryReserve s = true) {ws : List Word} {m : Memory}
    (hm : writeFrames s.params.ramWords s.ram (frameAddr s.params s.p.writeIndex.toNat 0) ws = .ok m) :
    State.Inv (publish { renderSources s with ram := m }) := by
  have hcap := hinv.capOpen (.inl hlive.1)
  have hwrite := writeIndex_lt_capacity hinv hcap
  have hmax := (capacity_le_maxCapImpl hinv hcap).trans (maxCapImpl_le hinv.legal)
  obtain ⟨hform, hrange, -, -⟩ := writeFrames_spec hm
  obtain ⟨hrdJump, hwrJump, -, hrd, hwr, hindex⟩ := hinv.livePointers hlive
  have hroom' : ptrDist s.p.wrCnt s.p.rdSeen < s.p.capacity.toNat := of_decide_eq_true hroom
  have hsplit : ptrDist s.p.wrCnt s.p.rdSeen = ptrDist s.p.wrCnt s.c.rdCnt + ptrDist s.c.rdCnt s.p.rdSeen :=
    ptrDist_split hrd
  have hcountP : ptrDist (s.p.wrCnt + 1) s.p.rdSeen = ptrDist s.p.wrCnt s.p.rdSeen + 1 :=
    ptrDist_add_one_left (by omega)
  have hcount : ptrDist (s.p.wrCnt + 1) s.c.rdCnt = ptrDist s.p.wrCnt s.c.rdCnt + 1 :=
    ptrDist_add_one_left (by omega)
  exact { hinv with
    wrGrayed := rfl
    writeIndexIn := by
      simp only [publish_p, renderSources_p, if_neg hcap, nextIndex_toNat hwrite]
      exact Nat.mod_lt _ (by omega)
    shutPointers := fun hshut => absurd hlive.1 hshut
    livePointers := fun _ => by
      refine ⟨hrdJump, hwrJump, ?_, ?_, ?_, ?_⟩
      · change ptrDist (s.p.wrCnt + 1) s.p.rdSeen ≤ s.p.capacity.toNat
        omega
      · change ptrDist s.c.rdCnt s.p.rdSeen ≤ ptrDist (s.p.wrCnt + 1) s.p.rdSeen
        omega
      · change s.countC ≤ ptrDist (s.p.wrCnt + 1) s.c.rdCnt
        omega
      · change (nextIndex s.p.writeIndex s.p.capacity).toNat =
          (s.c.readIndex.toNat + ptrDist (s.p.wrCnt + 1) s.c.rdCnt) % s.p.capacity.toNat
        rw [nextIndex_toNat hwrite, hindex, hcount, Nat.mod_add_mod, Nat.add_assoc]
    windowPointers := fun hwindow => by
      obtain ⟨hclosing, -⟩ := (closeWindow_eq_true_iff _).1 hwindow
      simp [hphase] at hclosing
    ramForm := hform hinv.ramForm
    ramRange := hrange hinv.ramRange }

theorem State.Inv.dropBuffer {s : State} (hinv : s.Inv) : (dropBuffer (renderSources s)).Inv := { hinv with }

theorem State.Inv.trigger {s t : State} (hinv : s.Inv) (hphase : s.p.phase = .advancing) (h : trigger s = .ok t) :
    t.Inv := by
  obtain ⟨hroom, m, hm, rfl⟩ | ⟨-, rfl⟩ := trigger_cases h
  · exact (hinv.publish (hinv.live_of_advancing hphase) hphase hroom hm).countTrigger
  · exact hinv.dropBuffer.countTrigger

theorem triggerDue_iff (s : State) :
    triggerDue s = true ↔ s.p.phase = .advancing ∧ s.params.thresh ≤ s.p.audAcc.toNat := by
  simp [triggerDue]

theorem State.Inv.stepTrigger {s t : State} (hinv : s.Inv) (h : stepTrigger s = .next t) : t.Inv := by
  obtain ⟨hdue, -, u, hu, rfl⟩ | ⟨-, rfl⟩ := stepTrigger_cases h
  · obtain ⟨hphase, -⟩ := (triggerDue_iff s).1 hdue
    have hu' : u.Inv := (hinv.takeThresh hphase).trigger hphase hu
    exact { hu' with }
  · exact hinv

/-! ### Completions keep the invariant -/

theorem State.Inv.stepFinishAdvance {s : State} (hinv : s.Inv) : (stepFinishAdvance s).Inv := by
  obtain ⟨hphase, haud, e⟩ | e := stepFinishAdvance_cases s
  · rw [e]
    have hopen := hinv.busyOpen (.inl hphase)
    have hruns := hinv.openRuns ⟨hopen, by simp [hphase]⟩
    have hrun := hinv.runWhen.2 (.inr ⟨hopen, by simp [hphase]⟩)
    exact { hinv with
      rspIdle := fun _ => rfl
      busyOpen := fun _ => hopen
      openingShut := by simp
      disabledShut := fun hdis => ⟨rfl, (hinv.disabledShut hdis).2⟩
      capOpen := fun _ => hinv.capOpen (.inl hopen)
      runWhen := by simp [hrun, hopen]
      shutStill := by simp [hopen]
      openingOrder := by simp
      openRuns := fun _ => hruns
      closingOrder := by simp
      windowPointers := by simp [closeWindow_eq_true_iff]
      audBound := fun _ => haud }
  · rwa [e]

/-- R143: with `ack_seen` = 1 the rising half is complete, and both pointers are still 0. -/
theorem State.Inv.openComplete {s : State} (hinv : s.Inv) (hphase : s.p.phase = .opening) (hseen : s.p.ackSeen = true) :
    (openComplete s).Inv := by
  have hshut := hinv.openingShut hphase
  obtain ⟨hfault, hopen⟩ := not_fault_not_opened_of_shut hshut
  obtain ⟨hrunOfAck, hackOfSeen⟩ := hinv.openingOrder hphase
  have hack := hackOfSeen hseen
  obtain ⟨hwr, hrd, hwrite, hread, hrdSeen, hrdJump, hwrJump, hwrSeen⟩ := hinv.shutPointers hopen
  have hwrSeen := hwrSeen hack
  have hrun := hinv.runWhen.2 (.inl hphase)
  exact { hinv with
    rspIdle := fun _ => rfl
    busyOpen := fun _ => rfl
    openingShut := by simp
    causeFault := by simpa using mt hinv.causeFault.2 hfault
    disabledShut := fun hdis => by
      obtain ⟨hidle, -⟩ := hinv.disabledShut hdis
      simp [hphase] at hidle
    capOpen := fun _ => hinv.capOpen (.inr hphase)
    runWhen := by simp [hrun]
    shutStill := by simp
    openingOrder := by simp
    openRuns := fun _ => ⟨hrunOfAck hack, hack, hseen⟩
    closingOrder := by simp
    shutPointers := by simp
    livePointers := fun _ => by
      refine ⟨hrdJump, by simpa [hwrSeen] using hwrJump, ?_⟩
      simp [State.countP, State.countC, hwr, hrd, hwrite, hread, hrdSeen, hwrSeen]
    windowPointers := by simp [closeWindow_eq_true_iff]
    audBound := fun _ => hinv.audBound (by simp [hphase]) }

/-- R146: with `ack_seen` = 0 and `rd_seen` = 0 the falling half is complete, inside the CLOSE window. -/
theorem State.Inv.closeComplete {s : State} (hinv : s.Inv) (hphase : s.p.phase = .closing) (hseen : s.p.ackSeen = false)
    (hrdSeen : s.p.rdSeen = 0) : (closeComplete s).Inv := by
  have hopen := hinv.busyOpen (.inr hphase)
  obtain ⟨hrunOfAck, hackOfSeen⟩ := hinv.closingOrder hphase
  have hack := hackOfSeen hseen
  obtain ⟨hrd, hread, hrdJump, -⟩ := hinv.windowPointers ((closeWindow_eq_true_iff s).2 ⟨hphase, hack⟩)
  have hnoRun := mt hinv.runWhen.1 (by simp [hphase])
  exact { hinv with
    rspIdle := fun _ => rfl
    busyOpen := by simp
    openingShut := by simp
    causeFault := by simpa [hopen] using hinv.causeFault
    disabledShut := fun _ => ⟨rfl, .inr rfl⟩
    capOpen := by simp
    runWhen := by simpa using hnoRun
    shutStill := fun _ => ⟨hrunOfAck hack, hack, hseen⟩
    openingOrder := by simp
    openRuns := by simp
    closingOrder := by simp
    wrGrayed := gray_zero.symm
    writeIndexIn := zero_index_in _
    shutPointers := fun _ => ⟨rfl, hrd, rfl, hread, hrdSeen, by simpa [hrdSeen] using hrdJump, by simp, by simp [hack]⟩
    livePointers := by simp [State.live]
    windowPointers := by simp [closeWindow_eq_true_iff]
    audBound := fun _ => hinv.audBound (by simp [hphase]) }

theorem State.Inv.stepFinishHandshake {s : State} (hinv : s.Inv) : (stepFinishHandshake s).Inv := by
  obtain ⟨hphase, hseen, e⟩ | ⟨hphase, hseen, hrd, e⟩ | e := stepFinishHandshake_cases s <;> rw [e]
  · exact hinv.openComplete hphase hseen
  · exact hinv.closeComplete hphase hseen hrd
  · exact hinv

/-! ### Consumer start and stop keep the invariant -/

/-- A consumer that is stopped and sees a run request belongs to an OPEN in progress (R135). -/
theorem State.Inv.opening_of_startable {s : State} (hinv : s.Inv) (hack : s.c.ackC = false) (hrun : s.c.runSeen = true) :
    s.p.phase = .opening ∧ s.p.eng ≠ .opened := by
  have hopen : s.p.eng ≠ .opened := fun hopen => by
    obtain ⟨-, hack'⟩ | hwindow := hinv.live_or_window hopen
    · simp [hack] at hack'
    · obtain ⟨hclosing, -⟩ := (closeWindow_eq_true_iff s).1 hwindow
      obtain ⟨hrunOfAck, -⟩ := hinv.closingOrder hclosing
      simp [hrunOfAck hack] at hrun
  refine ⟨?_, hopen⟩
  by_contra hphase
  obtain ⟨hrun', -, -⟩ := hinv.shutStill ⟨hopen, hphase⟩
  simp [hrun] at hrun'

/-- A consumer that is running and no longer sees a run request belongs to a CLOSE in progress (R136). -/
theorem State.Inv.closing_of_stoppable {s : State} (hinv : s.Inv) (hack : s.c.ackC = true) (hrun : s.c.runSeen = false) :
    s.p.phase = .closing ∧ s.p.eng = .opened := by
  have hphase : s.p.phase ≠ .opening := fun hphase => by
    obtain ⟨hrunOfAck, -⟩ := hinv.openingOrder hphase
    simp [hrunOfAck hack] at hrun
  have hopen : s.p.eng = .opened := by
    by_contra hopen
    simp [ackC_of_shut hinv hopen hphase] at hack
  refine ⟨?_, hopen⟩
  by_contra hclosing
  obtain ⟨hrun', -, -⟩ := hinv.openRuns ⟨hopen, hclosing⟩
  simp [hrun] at hrun'

theorem State.Inv.stepStart {s : State} (hinv : s.Inv) : (stepStart s).Inv := by
  obtain ⟨hack, hrun, hwrSeen, e⟩ | e := stepStart_cases s
  · rw [e]
    obtain ⟨hphase, hopen⟩ := hinv.opening_of_startable hack hrun
    obtain ⟨hwr, hrd, hwrite, hread, hrdSeen, hrdJump, hwrJump, -⟩ := hinv.shutPointers hopen
    exact { hinv with
      shutStill := fun ⟨_, h⟩ => absurd hphase h
      openingOrder := fun _ => ⟨fun _ => hrun, fun _ => rfl⟩
      openRuns := fun ⟨h, _⟩ => absurd h hopen
      closingOrder := by simp [hphase]
      shutPointers := fun _ => ⟨hwr, hrd, hwrite, hread, hrdSeen, hrdJump, hwrJump, fun _ => hwrSeen⟩
      livePointers := fun ⟨h, _⟩ => absurd h hopen
      windowPointers := by simp [closeWindow_eq_true_iff] }
  · rwa [e]

theorem State.Inv.stepStop {s : State} (hinv : s.Inv) : (stepStop s).Inv := by
  obtain ⟨hack, hrun, e⟩ | e := stepStop_cases s
  · rw [e]
    obtain ⟨hphase, hopen⟩ := hinv.closing_of_stoppable hack hrun
    obtain ⟨-, hwrJump, -⟩ := hinv.livePointers ⟨hopen, hack⟩
    exact { hinv with
      shutStill := fun ⟨h, _⟩ => absurd hopen h
      openingOrder := by simp [hphase]
      openRuns := fun ⟨_, h⟩ => absurd hphase h
      closingOrder := fun _ => ⟨fun _ => hrun, fun _ => rfl⟩
      rdGrayed := gray_zero.symm
      readIndexIn := zero_index_in _
      shutPointers := fun h => absurd hopen h
      livePointers := by simp [State.live]
      windowPointers := fun _ => ⟨rfl, rfl, by simp, hwrJump⟩ }
  · rwa [e]

/-! ### Synchronizers keep the invariant -/

theorem syncRd_zero (s : State) : syncRd 0 s = s := rfl

theorem syncWr_zero (s : State) : syncWr 0 s = s := rfl

theorem syncRd_jump {s : State} (hjump : s.x.rdJump = true) (n : Nat) :
    syncRd (n + 1) s = { s with p.rdSeen := 0, x.rdJump := false } :=
  if_pos hjump

theorem syncWr_jump {s : State} (hjump : s.x.wrJump = true) (n : Nat) :
    syncWr (n + 1) s = { s with c.wrSeen := 0, x.wrJump := false } :=
  if_pos hjump

/-- The view reads the pointer through its gray code (R121). -/
theorem syncRd_forward {s : State} (hgray : s.c.rdGray = gray s.c.rdCnt) (hjump : s.x.rdJump = false) (n : Nat) :
    syncRd n s = { s with p.rdSeen := forward s.p.rdSeen s.c.rdCnt n } := by
  cases n with
  | zero => rw [syncRd_zero, forward_zero]
  | succ n => simp [syncRd, hjump, hgray, bin_gray]

theorem syncWr_forward {s : State} (hgray : s.p.wrGray = gray s.p.wrCnt) (hjump : s.x.wrJump = false) (n : Nat) :
    syncWr n s = { s with c.wrSeen := forward s.c.wrSeen s.p.wrCnt n } := by
  cases n with
  | zero => rw [syncWr_zero, forward_zero]
  | succ n => simp [syncWr, hjump, hgray, bin_gray]

/-- The write pointer is 0 while a move of its view to 0 is due, as only a shut engine has one. -/
theorem State.Inv.shut_of_wrJump {s : State} (hinv : s.Inv) (hjump : s.x.wrJump = true) : s.p.eng ≠ .opened := by
  intro hopen
  obtain hlive | hwindow := hinv.live_or_window hopen
  · obtain ⟨-, hnone, -⟩ := hinv.livePointers hlive
    simp [hjump] at hnone
  · obtain ⟨-, -, -, hnone⟩ := hinv.windowPointers hwindow
    simp [hjump] at hnone

/-- The read pointer's view has a move to 0 to make only inside a CLOSE window. -/
theorem State.Inv.window_of_rdJump {s : State} (hinv : s.Inv) (hjump : s.x.rdJump = true) :
    s.p.eng = .opened ∧ s.closeWindow = true := by
  have hopen : s.p.eng = .opened := by
    by_contra hopen
    obtain ⟨-, -, -, -, -, hnone, -⟩ := hinv.shutPointers hopen
    simp [hjump] at hnone
  obtain hlive | hwindow := hinv.live_or_window hopen
  · obtain ⟨hnone, -⟩ := hinv.livePointers hlive
    simp [hjump] at hnone
  · exact ⟨hopen, hwindow⟩

/-- While it is not live, a read pointer whose view has no move to 0 to make is where its view is. -/
theorem State.Inv.rdSeen_eq {s : State} (hinv : s.Inv) (hlive : ¬ s.live) (hjump : s.x.rdJump = false) :
    s.p.rdSeen = s.c.rdCnt := by
  by_cases hopen : s.p.eng = .opened
  · obtain ⟨hrd, -, hseen, -⟩ := hinv.windowPointers ((hinv.live_or_window hopen).resolve_left hlive)
    simpa [hrd, hjump] using hseen
  · obtain ⟨-, hrd, -, -, hseen, -⟩ := hinv.shutPointers hopen
    rw [hrd, hseen]

/-- The same of the write pointer of a shut engine. -/
theorem State.Inv.wrSeen_eq {s : State} (hinv : s.Inv) (hopen : s.p.eng ≠ .opened) (hjump : s.x.wrJump = false) :
    s.c.wrSeen = s.p.wrCnt := by
  obtain ⟨hwr, -, -, -, -, -, hseen, -⟩ := hinv.shutPointers hopen
  simpa [hwr, hjump] using hseen

/-- A move to 0 inside a CLOSE window. -/
theorem State.Inv.rdSeen_jumps {s : State} (hinv : s.Inv) (hjump : s.x.rdJump = true) :
    State.Inv { s with p.rdSeen := 0, x.rdJump := false } := by
  obtain ⟨hopen, hwindow⟩ := hinv.window_of_rdJump hjump
  obtain ⟨-, hack⟩ := (closeWindow_eq_true_iff s).1 hwindow
  obtain ⟨hrd, hread, -, hwrJump⟩ := hinv.windowPointers hwindow
  exact { hinv with
    shutPointers := fun h => absurd hopen h
    livePointers := by simp [State.live, hack]
    windowPointers := fun _ => ⟨hrd, hread, by simp, hwrJump⟩ }

/-- A move forward of a live view leaves the fill level and makes the producer's view of it smaller, still at least it. -/
theorem State.Inv.rdSeen_forward {s : State} (hinv : s.Inv) (hlive : s.live) (n : Nat) :
    State.Inv { s with p.rdSeen := forward s.p.rdSeen s.c.rdCnt n } := by
  obtain ⟨hopen, hack⟩ := id hlive
  obtain ⟨hrdJump, hwrJump, hfull, hrd, hwr, hindex⟩ := hinv.livePointers hlive
  have hsplit : s.countP = ptrDist s.p.wrCnt s.c.rdCnt + ptrDist s.c.rdCnt s.p.rdSeen := ptrDist_split hrd
  have hmoved := ptrDist_forward_right s.p.rdSeen s.c.rdCnt n
  have hlt : s.countP < 2048 := ptrDist_lt _ _
  have hcountP : ptrDist s.p.wrCnt (forward s.p.rdSeen s.c.rdCnt n) =
      ptrDist s.p.wrCnt s.c.rdCnt + ptrDist s.c.rdCnt (forward s.p.rdSeen s.c.rdCnt n) := ptrDist_add (by omega)
  exact { hinv with
    shutPointers := fun h => absurd hopen h
    livePointers := fun _ => by
      refine ⟨hrdJump, hwrJump, ?_, ?_, hwr, hindex⟩
      · change ptrDist s.p.wrCnt (forward s.p.rdSeen s.c.rdCnt n) ≤ s.p.capacity.toNat
        omega
      · change ptrDist s.c.rdCnt (forward s.p.rdSeen s.c.rdCnt n) ≤
          ptrDist s.p.wrCnt (forward s.p.rdSeen s.c.rdCnt n)
        omega
    windowPointers := by simp [closeWindow_eq_true_iff, hack] }

theorem State.Inv.syncRd {s : State} (hinv : s.Inv) (n : Nat) : (syncRd n s).Inv := by
  cases hjump : s.x.rdJump with
  | true =>
    cases n with
    | zero => exact hinv
    | succ n => rw [syncRd_jump hjump]; exact hinv.rdSeen_jumps hjump
  | false =>
    rw [syncRd_forward hinv.rdGrayed hjump]
    by_cases hlive : s.live
    · exact hinv.rdSeen_forward hlive n
    · rw [← hinv.rdSeen_eq hlive hjump, forward_self]
      exact hinv

/-- A move to 0 of the view of a shut engine's write pointer. -/
theorem State.Inv.wrSeen_jumps {s : State} (hinv : s.Inv) (hjump : s.x.wrJump = true) :
    State.Inv { s with c.wrSeen := 0, x.wrJump := false } := by
  have hopen := hinv.shut_of_wrJump hjump
  obtain ⟨hwr, hrd, hwrite, hread, hrdSeen, hrdJump, -, -⟩ := hinv.shutPointers hopen
  exact { hinv with
    shutPointers := fun _ => ⟨hwr, hrd, hwrite, hread, hrdSeen, hrdJump, by simp, fun _ => rfl⟩
    livePointers := fun ⟨h, _⟩ => absurd h hopen
    windowPointers := fun h => by
      obtain ⟨hphase, -⟩ := (closeWindow_eq_true_iff _).1 h
      exact absurd (hinv.busyOpen (.inr hphase)) hopen }

/-- A move forward of the view of an open engine's write pointer leaves the consumer's view at most the fill level. -/
theorem State.Inv.wrSeen_forward {s : State} (hinv : s.Inv) (hopen : s.p.eng = .opened) (n : Nat) :
    State.Inv { s with c.wrSeen := forward s.c.wrSeen s.p.wrCnt n } :=
  { hinv with
    shutPointers := fun h => absurd hopen h
    livePointers := fun hlive => by
      obtain ⟨hrdJump, hwrJump, hfull, hrd, hwr, hindex⟩ := hinv.livePointers hlive
      have hsplit : ptrDist s.p.wrCnt s.c.rdCnt = ptrDist s.p.wrCnt s.c.wrSeen + s.countC := ptrDist_split hwr
      have hmoved := ptrDist_forward_right s.c.wrSeen s.p.wrCnt n
      have hcountC : ptrDist (forward s.c.wrSeen s.p.wrCnt n) s.c.rdCnt =
          ptrDist s.p.wrCnt s.c.rdCnt - ptrDist s.p.wrCnt (forward s.c.wrSeen s.p.wrCnt n) := ptrDist_sub (by omega)
      refine ⟨hrdJump, hwrJump, hfull, hrd, ?_, hindex⟩
      change ptrDist (forward s.c.wrSeen s.p.wrCnt n) s.c.rdCnt ≤ ptrDist s.p.wrCnt s.c.rdCnt
      omega }

theorem State.Inv.syncWr {s : State} (hinv : s.Inv) (n : Nat) : (syncWr n s).Inv := by
  cases hjump : s.x.wrJump with
  | true =>
    cases n with
    | zero => exact hinv
    | succ n => rw [syncWr_jump hjump]; exact hinv.wrSeen_jumps hjump
  | false =>
    rw [syncWr_forward hinv.wrGrayed hjump]
    by_cases hopen : s.p.eng = .opened
    · exact hinv.wrSeen_forward hopen n
    · rw [← hinv.wrSeen_eq hopen hjump, forward_self]
      exact hinv

theorem State.Inv.syncRun {s : State} (hinv : s.Inv) : (syncRun s).Inv := by
  have hrun := hinv.runWhen
  have hnoRun (h : ¬ (s.p.phase = .opening ∨ (s.p.eng = .opened ∧ s.p.phase ≠ .closing))) : s.p.runP = false :=
    eq_false_of_ne_true (mt hrun.1 h)
  exact { hinv with
    shutStill := fun h => by
      obtain ⟨-, hack, hseen⟩ := hinv.shutStill h
      obtain ⟨hopen, hphase⟩ := h
      exact ⟨hnoRun (not_or.2 ⟨hphase, fun h => hopen h.1⟩), hack, hseen⟩
    openingOrder := fun hphase => ⟨fun _ => hrun.2 (.inl hphase), (hinv.openingOrder hphase).2⟩
    openRuns := fun h => ⟨hrun.2 (.inr h), (hinv.openRuns h).2⟩
    closingOrder := fun (hphase : s.p.phase = .closing) =>
      ⟨fun _ => hnoRun (by simp [hphase]), (hinv.closingOrder hphase).2⟩ }

theorem State.Inv.syncAck {s : State} (hinv : s.Inv) : (syncAck s).Inv :=
  { hinv with
    shutStill := fun h => by
      obtain ⟨hrun, hack, -⟩ := hinv.shutStill h
      exact ⟨hrun, hack, hack⟩
    openingOrder := fun hphase => ⟨(hinv.openingOrder hphase).1, id⟩
    openRuns := fun h => by
      obtain ⟨hrun, hack, -⟩ := hinv.openRuns h
      exact ⟨hrun, hack, hack⟩
    closingOrder := fun hphase => ⟨(hinv.closingOrder hphase).1, id⟩ }

theorem State.Inv.syncDiag {s : State} (hinv : s.Inv) : (syncDiag s).Inv := { hinv with diagLags := id }

/-! ### Every step keeps the invariant -/

/-- The registers right after reset have the invariant with any legal parameters, whatever else the state holds. -/
theorem Inv_of_reset {s : State} (hlegal : s.params.legal = true) (hp : s.p = Producer.reset) (hc : s.c = Consumer.reset)
    (hx : s.x = Crossing.reset) (hram : s.ram = []) : s.Inv := by
  obtain ⟨params, p, c, x, ram, ramEpoch, env, out, agenda, draws, lags⟩ := s
  cases hp; cases hc; cases hx; cases hram
  obtain ⟨hdiv, -, -⟩ := legal_bounds_stage1 hlegal
  constructor
  case legal => exact hlegal
  case cpuBound => exact hdiv
  case audBound => exact fun _ => thresh_pos hlegal
  case livePointers => exact fun ⟨h, _⟩ => nomatch h
  case wrGrayed | rdGrayed => exact gray_zero.symm
  all_goals simp [closeWindow_eq_true_iff, Memory.wf]

theorem cmdReady_iff (s : State) : s.cmdReady = true ↔ s.p.phase = .idle ∧ s.p.rsp = none := by
  simp [State.cmdReady, State.rspValid]

theorem State.Inv.execOpen {s t : State} {noDev : Bool} {req : BitVec 24} (hinv : s.Inv) (hready : s.cmdReady = true)
    (h : execOpen noDev req s = .next t) : t.Inv := by
  obtain ⟨hidle, hrsp⟩ := (cmdReady_iff s).1 hready
  obtain ⟨-, rfl⟩ | ⟨-, rfl⟩ | ⟨hshut, hdis, hopen⟩ := execOpen_cases h
  · exact hinv.respond hidle _ _
  · exact hinv.respond hidle _ _
  · obtain ⟨-, rfl⟩ | ⟨-, -, rfl⟩ | ⟨-, -, -, rfl⟩ | ⟨-, hfits, -, rfl⟩ := hopen
    · exact (hinv.disable hidle hshut).respond hidle _ _
    · exact hinv.enterFault hidle hshut hdis .alloc
    · exact hinv.enterFault hidle hshut hdis .dev
    · exact hinv.openSuccess hrsp hshut hidle hdis hfits

theorem State.Inv.execSinkReq {s t : State} {len : BitVec 28} (hinv : s.Inv) (h : execSinkReq len s = .next t) :
    t.Inv := by
  obtain ⟨-, rfl⟩ | ⟨-, h⟩ := execSinkReq_cases h
  · exact hinv.badRequest _
  · obtain ⟨-, rfl⟩ | ⟨hack, hdata, ws, -, rfl⟩ := serveRequest_cases h
    · exact { hinv with }
    · exact { hinv.release hack hdata with }

/-- An instruction that its port can accept keeps the invariant. -/
theorem State.Inv.exec {i : Instr} {s t : State} (hinv : s.Inv) (hready : i.port = .command → s.cmdReady = true)
    (h : exec i s = .next t) : t.Inv := by
  cases i with
  | nop => cases h; exact hinv.respond ((cmdReady_iff s).1 (hready rfl)).1 _ _
  | openEngine noDev req => exact hinv.execOpen (hready rfl) h
  | closeEngine =>
    obtain ⟨hidle, hrsp⟩ := (cmdReady_iff s).1 (hready rfl)
    obtain ⟨-, rfl⟩ | ⟨-, -, rfl⟩ | ⟨hopen, rfl⟩ := execClose_cases h
    · exact hinv.respond hidle _ _
    · exact hinv.respond hidle _ _
    · exact hinv.closeSequence hrsp hopen hidle
  | advance cycles =>
    obtain ⟨hidle, hrsp⟩ := (cmdReady_iff s).1 (hready rfl)
    obtain ⟨-, rfl⟩ | ⟨-, -, rfl⟩ | ⟨hopen, rfl⟩ := execAdvance_cases h
    · exact hinv.respond hidle _ _
    · exact hinv.respond hidle _ _
    · exact hinv.beginAdvance hrsp hopen hidle _
  | csrRead idx =>
    obtain ⟨hidle, -⟩ := (cmdReady_iff s).1 (hready rfl)
    obtain ⟨v, -, rfl⟩ | ⟨-, rfl⟩ := execCsrRead_cases h
    · exact hinv.respond hidle _ _
    · exact hinv.takeIllegal hidle
  | sinkReq len => exact hinv.execSinkReq h

theorem State.Inv.stepAccept {s t : State} (hinv : s.Inv) (h : stepAccept s = .next t) : t.Inv := by
  have htaken : State.Inv { s with env.cmd := none } := { hinv with }
  obtain rfl | ⟨hready, w, -, ⟨i, -, h⟩ | ⟨r, -, rfl⟩⟩ := stepAccept_cases h
  · exact hinv
  · exact htaken.exec (fun _ => hready) h
  · exact htaken.takeIllegal ((cmdReady_iff s).1 hready).1

theorem State.Inv.stepSink {s t : State} (hinv : s.Inv) (h : stepSink s = .next t) : t.Inv := by
  have htaken : State.Inv { s with env.req := none } := { hinv with }
  obtain ⟨-, rfl⟩ | ⟨w, -, ⟨i, hdec, h⟩ | ⟨r, -, rfl⟩⟩ := stepSink_cases h
  · exact hinv
  · rw [decodeRequest_sink hdec] at h
    exact htaken.execSinkReq h
  · exact htaken.badRequest _

/-- Every move keeps the invariant. -/
theorem State.Inv.perform {m : Move} {s t : State} (hinv : s.Inv) (h : perform m s = .next t) : t.Inv := by
  cases m with
  | accept => exact hinv.stepAccept h
  | trigger => exact hinv.stepTrigger h
  | sink => exact hinv.stepSink h
  | hostDrive cmd => obtain rfl | rfl := driveCommand_cases h <;> exact { hinv with }
  | deviceDrive req => obtain rfl | rfl := driveRequest_cases h <;> exact { hinv with }
  | hostTake => cases h; exact { hinv with rspIdle := by simp }
  | platform devOk devRate => cases h; exact { hinv with }
  | sourceDeliver k frames => cases h; cases k <;> exact { hinv with }
  | finishAdvance => cases h; exact hinv.stepFinishAdvance
  | finishHandshake => cases h; exact hinv.stepFinishHandshake
  | start => cases h; exact hinv.stepStart
  | stop => cases h; exact hinv.stepStop
  | syncRd n => cases h; exact hinv.syncRd n
  | syncWr n => cases h; exact hinv.syncWr n
  | syncRun => cases h; exact hinv.syncRun
  | syncAck => cases h; exact hinv.syncAck
  | syncDiag => cases h; exact hinv.syncDiag
  | reset cut => cases h; exact Inv_of_reset (by simpa using hinv.legal) rfl rfl rfl rfl
  | crossingViolation | ramOrderViolation => cases h

theorem State.Inv.scheduled {s : State} (hinv : s.Inv) : s.scheduled.Inv := { hinv with }

theorem State.Inv.step {s t : State} (hinv : s.Inv) (h : step s = .next t) : t.Inv := by
  obtain ⟨-, hperform⟩ := step_next h
  exact hinv.scheduled.perform hperform

/-! ### No step faults -/

/-- The words of a frame buffer fit any slot the RAM holds (R65). -/
theorem writeFrames_slot {q : Params} {slot : Nat} (hslot : slot < q.maxCapImpl) (m : Memory) {ws : List Word}
    (hws : ws.length = q.fblen) : ∃ m', writeFrames q.ramWords m (frameAddr q slot 0) ws = .ok m' :=
  writeFrames_succeeds _ _ _ _ (hws ▸ slot_in_ram hslot)

theorem writeIndex_lt_maxCapImpl {s : State} (hinv : s.Inv) (hcap : s.p.capacity ≠ 0) :
    s.p.writeIndex.toNat < s.params.maxCapImpl :=
  (writeIndex_lt_capacity hinv hcap).trans_le (capacity_le_maxCapImpl hinv hcap)

theorem readIndex_lt_maxCapImpl {s : State} (hinv : s.Inv) (hcap : s.p.capacity ≠ 0) :
    s.c.readIndex.toNat < s.params.maxCapImpl :=
  (readIndex_lt_capacity hinv hcap).trans_le (capacity_le_maxCapImpl hinv hcap)

theorem stepTrigger_held {s : State} (h : triggerDue s = false ∨ sourcesReady s = false) : stepTrigger s = .next s :=
  if_neg (by rcases h with h | h <;> simp [h])

/-- The state after a trigger that found no room (R112). -/
def afterDrop (s : State) : State :=
  { countTrigger (dropBuffer (renderSources (takeThresh s))) with p.advTrigs := s.p.advTrigs + 1 }

/-- The state after a trigger that published the frame buffer of the RAM `m` (R111, R117). -/
def afterPublish (s : State) (m : Memory) : State :=
  { countTrigger (publish { renderSources (takeThresh s) with ram := m }) with p.advTrigs := s.p.advTrigs + 1 }

theorem stepTrigger_overrun {s : State} (hdue : triggerDue s = true) (hready : sourcesReady s = true)
    (hfull : tryReserve s = false) : stepTrigger s = .next (afterDrop s) := by
  have htrigger : trigger (takeThresh s) = .ok (countTrigger (dropBuffer (renderSources (takeThresh s)))) :=
    if_neg (by simp [show tryReserve (takeThresh s) = false from hfull])
  simp only [stepTrigger, hdue, hready, Bool.and_self, if_true, htrigger]
  rfl

theorem publishes_iff (s : State) :
    s.publishes = true ↔ triggerDue s = true ∧ sourcesReady s = true ∧ tryReserve s = true := by
  simp [State.publishes, and_assoc]

theorem stepTrigger_publishes {s : State} (hinv : s.Inv) (h : s.publishes = true) :
    ∃ m, writeFrames s.params.ramWords s.ram (frameAddr s.params s.p.writeIndex.toNat 0) (mixedBuffer s) = .ok m ∧
      stepTrigger s = .next (afterPublish s m) := by
  obtain ⟨hdue, hready, hroom⟩ := (publishes_iff s).1 h
  obtain ⟨hphase, -⟩ := (triggerDue_iff s).1 hdue
  have hcap := hinv.capOpen (.inl (hinv.busyOpen (.inl hphase)))
  obtain ⟨m, hm⟩ := writeFrames_slot (writeIndex_lt_maxCapImpl hinv hcap) s.ram (mixedBuffer_length hready)
  refine ⟨m, hm, ?_⟩
  have htrigger : trigger (takeThresh s) = .ok (countTrigger (publish { renderSources (takeThresh s) with ram := m })) := by
    have hroom' : tryReserve (takeThresh s) = true := hroom
    have hm' : writeFrames (takeThresh s).params.ramWords (takeThresh s).ram
        (frameAddr (takeThresh s).params (takeThresh s).p.writeIndex.toNat 0) (mixedBuffer (takeThresh s)) = .ok m := hm
    simp only [trigger, hroom', if_true, hm']
  simp only [stepTrigger, hdue, hready, Bool.and_self, if_true, htrigger]
  rfl

/-- Every trigger step answers a next state: held, overrun or publishing. -/
theorem stepTrigger_next {s : State} (hinv : s.Inv) : ∃ t, stepTrigger s = .next t := by
  cases hdue : triggerDue s with
  | false => exact ⟨_, stepTrigger_held (.inl hdue)⟩
  | true =>
    cases hready : sourcesReady s with
    | false => exact ⟨_, stepTrigger_held (.inr hready)⟩
    | true =>
      cases hroom : tryReserve s with
      | false => exact ⟨_, stepTrigger_overrun hdue hready hroom⟩
      | true =>
        obtain ⟨m, -, h⟩ := stepTrigger_publishes hinv ((publishes_iff s).2 ⟨hdue, hready, hroom⟩)
        exact ⟨_, h⟩

/-- Every well-formed request is answered: stopped, on underrun or with data. -/
theorem serveRequest_next {s : State} (hinv : s.Inv) : ∃ t, serveRequest s = .next t := by
  cases hack : s.c.ackC with
  | false => exact ⟨_, serveRequest_stopped hack⟩
  | true =>
    by_cases hdata : s.countC = 0
    · exact ⟨_, serveRequest_underrun hack hdata⟩
    · exact ⟨_, serveRequest_data hack hdata (readIndex_lt_maxCapImpl hinv (capacity_ne_zero_of_ackC hinv hack))⟩

theorem execSinkReq_next {len : BitVec 28} {s : State} (hinv : s.Inv) : ∃ t, execSinkReq len s = .next t := by
  by_cases hlen : lenOf len = s.params.fblen
  · obtain ⟨t, ht⟩ := serveRequest_next hinv
    exact ⟨t, (if_neg (not_not.2 hlen)).trans ht⟩
  · exact ⟨_, if_pos hlen⟩

/-- Every instruction answers a next state: a command in each of its branches, and a request by the RAM's size. -/
theorem exec_next {i : Instr} {s : State} (hinv : s.Inv) : ∃ t, exec i s = .next t := by
  cases i with
  | nop => exact ⟨_, rfl⟩
  | openEngine noDev req => simp only [exec, execOpen, done]; split_ifs <;> exact ⟨_, rfl⟩
  | closeEngine => simp only [exec, execClose, done]; split_ifs <;> exact ⟨_, rfl⟩
  | advance cycles => simp only [exec, execAdvance, done]; split_ifs <;> exact ⟨_, rfl⟩
  | csrRead idx => simp only [exec, execCsrRead, done]; split <;> exact ⟨_, rfl⟩
  | sinkReq len => exact execSinkReq_next hinv

theorem stepAccept_next {s : State} (hinv : s.Inv) : ∃ t, stepAccept s = .next t := by
  have htaken : State.Inv { s with env.cmd := none } := { hinv with }
  simp only [stepAccept]
  split
  · exact ⟨_, rfl⟩
  split_ifs
  · split
    · exact exec_next htaken
    · exact ⟨_, rfl⟩
  · exact ⟨_, rfl⟩

theorem stepSink_next {s : State} (hinv : s.Inv) : ∃ t, stepSink s = .next t := by
  have htaken : State.Inv { s with env.req := none } := { hinv with }
  simp only [stepSink]
  split
  · exact ⟨_, rfl⟩
  split
  · exact exec_next htaken
  · exact ⟨_, rfl⟩

theorem perform_ne_fault {m : Move} {s : State} (hinv : s.Inv) (f : Fault) : perform m s ≠ .fault f := by
  have hnext {o : Host.Outcome State Fault Refusal} (h : ∃ t, o = .next t) : o ≠ .fault f := by
    obtain ⟨t, rfl⟩ := h
    exact nofun
  cases m with
  | accept => exact hnext (stepAccept_next hinv)
  | trigger => exact hnext (stepTrigger_next hinv)
  | sink => exact hnext (stepSink_next hinv)
  | hostDrive cmd => simp only [perform, driveCommand]; split <;> [skip; split_ifs] <;> exact nofun
  | deviceDrive req => simp only [perform, driveRequest]; split <;> [skip; split_ifs] <;> exact nofun
  | hostTake | platform | sourceDeliver | finishAdvance | finishHandshake | start | stop | syncRd | syncWr | syncRun
  | syncAck | syncDiag | reset | crossingViolation | ramOrderViolation => exact nofun

/-! ### The statements -/

/-- Settles O54: the registers of the reset table, with any legal parameters. -/
theorem resetHasTheInvariant : Obligations.ResetHasTheInvariant := by
  unfold Obligations.ResetHasTheInvariant
  exact fun q hlegal => Inv_of_reset hlegal rfl rfl rfl rfl

/-- Settles O55: a step performs one move on the scheduled state, and every move keeps the invariant. -/
theorem stepKeepsTheInvariant : Obligations.StepKeepsTheInvariant := by
  unfold Obligations.StepKeepsTheInvariant
  exact fun s t hinv h => hinv.step h

/-- Settles O56: the two moves that reach the RAM, a trigger and a request, stay inside it. -/
theorem stepNeverFaults : Obligations.StepNeverFaults := by
  unfold Obligations.StepNeverFaults
  intro s hinv f
  rw [step, if_pos hinv.legal]
  exact perform_ne_fault hinv.scheduled f

end Sys2Proof.Machine
end

section
/-! PROOFS. A word as the append of its fields (R79, R82, R85), the two ports' decoder as the inverse of the encoder, the
rows of the opcode table, and the statements about them: O1, O2, O4 and O5. -/

namespace Sys2Proof.Machine

open Sys2Proof

/-! ### A word and its fields -/

theorem op_append_payload (w : Word) : opField w ++ payloadField w = w :=
  (BitVec.extractLsb'_append_extractLsb'_eq_extractLsb' rfl).trans BitVec.extractLsb'_eq_self

/-- The fields of OPEN's payload (R82). -/
theorem openFields_append (w : Word) :
    BitVec.ofBool (noneField w) ++ (openReservedField w ++ reqField w) = payloadField w := by
  have hnone : BitVec.ofBool (noneField w) = w.extractLsb' 27 1 := by
    apply BitVec.eq_of_getLsbD_eq
    intro j hj
    obtain rfl : j = 0 := by omega
    simp [noneField]
  have hlow : openReservedField w ++ reqField w = w.extractLsb' 0 27 :=
    BitVec.extractLsb'_append_extractLsb'_eq_extractLsb' rfl
  rw [hnone, hlow]
  exact BitVec.extractLsb'_append_extractLsb'_eq_extractLsb' rfl

/-- The fields of CSR_READ's payload (R85). -/
theorem csrFields_append (w : Word) : csrReservedField w ++ idxField w = payloadField w :=
  BitVec.extractLsb'_append_extractLsb'_eq_extractLsb' rfl

/-- What the decoder finds in OPEN's word. -/
theorem openFields_encode (noDev : Bool) (req : BitVec 24) :
    openReservedField (encode (.openEngine noDev req)) = 0#3 ∧ noneField (encode (.openEngine noDev req)) = noDev ∧
    reqField (encode (.openEngine noDev req)) = req := by
  refine ⟨BitVec.eq_of_getLsbD_eq fun j hj => ?reserved, ?none, BitVec.eq_of_getLsbD_eq fun j hj => ?req⟩
  case reserved =>
    rw [openReservedField, BitVec.getLsbD_extractLsb', encode, getLsbD_word, BitVec.getLsbD_append,
      BitVec.getLsbD_append]
    simp [show 24 + j < 28 by omega, show 24 + j < 27 by omega]
  case none =>
    rw [noneField, encode, getLsbD_word, BitVec.getLsbD_append]
    simp
  case req =>
    rw [reqField, BitVec.getLsbD_extractLsb', encode, getLsbD_word, BitVec.getLsbD_append, BitVec.getLsbD_append]
    simp [hj, show j < 28 by omega, show j < 27 by omega]

/-! ### The decoder and the encoder -/

theorem decodeCommand_encode {i : Instr} (hport : i.port = .command) (hwf : i.wf = true) :
    decodeCommand (encode i) = .instr i := by
  cases i with
  | nop | closeEngine => rfl
  | openEngine noDev req =>
    obtain ⟨hreserved, hnone, hreq⟩ := openFields_encode noDev req
    have hop : opField (encode (.openEngine noDev req)) = 0x1#4 := Laws.OpField.openEngine noDev req
    simp [decodeCommand, hop, hreserved, hnone, hreq]
  | advance cycles =>
    have hop : opField (encode (.advance cycles)) = 0x3#4 := Laws.OpField.advance cycles
    have hpayload : payloadField (encode (.advance cycles)) = cycles := payloadField_word _ _
    simp [decodeCommand, hop, hpayload]
  | csrRead idx => rw [decodeCommand_csrRead, if_pos (of_decide_eq_true hwf)]
  | sinkReq len => cases hport

theorem decodeRequest_encode (len : BitVec 28) : decodeRequest (encode (.sinkReq len)) = .instr (.sinkReq len) := by
  have hop : opField (encode (.sinkReq len)) = 0x8#4 := Laws.OpField.sinkReq len
  have hpayload : payloadField (encode (.sinkReq len)) = len := payloadField_word _ _
  rw [decodeRequest, if_pos hop, hpayload]

theorem decodeOn_encode {i : Instr} (hwf : i.wf = true) : decodeOn i.port (encode i) = .instr i := by
  cases i with
  | sinkReq len => exact decodeRequest_encode len
  | nop | openEngine | closeEngine | advance | csrRead => exact decodeCommand_encode rfl hwf

theorem encode_nop_of_fields {w : Word} (hop : opField w = 0x0#4) (hpayload : payloadField w = 0#28) :
    encode .nop = w := by
  have hword := op_append_payload w
  rwa [hop, hpayload] at hword

theorem encode_open_of_fields {w : Word} (hop : opField w = 0x1#4) (hreserved : openReservedField w = 0#3) :
    encode (.openEngine (noneField w) (reqField w)) = w := by
  have hword := op_append_payload w
  rwa [hop, ← openFields_append, hreserved] at hword

theorem encode_close_of_fields {w : Word} (hop : opField w = 0x2#4) (hpayload : payloadField w = 0#28) :
    encode .closeEngine = w := by
  have hword := op_append_payload w
  rwa [hop, hpayload] at hword

theorem encode_advance_of_op {w : Word} (hop : opField w = 0x3#4) : encode (.advance (payloadField w)) = w := by
  have hword := op_append_payload w
  rwa [hop] at hword

theorem encode_csrRead_of_fields {w : Word} (hop : opField w = 0x4#4) (hreserved : csrReservedField w = 0#20) :
    encode (.csrRead (idxField w)) = w := by
  have hword := op_append_payload w
  rwa [hop, ← csrFields_append, hreserved] at hword

theorem encode_sinkReq_of_op {w : Word} (hop : opField w = 0x8#4) : encode (.sinkReq (payloadField w)) = w := by
  have hword := op_append_payload w
  rwa [hop] at hword

/-- Each branch of the decoder that gives an instruction has checked every field that the instruction does not hold. -/
theorem encode_of_decodeCommand {w : Word} {i : Instr} (h : decodeCommand w = .instr i) : i.wf = true ∧ encode i = w := by
  simp only [decodeCommand] at h
  split_ifs at h with hop hpayload hop hreserved hop hpayload hop hop hreserved hidx <;> cases h
  case pos => exact ⟨rfl, encode_nop_of_fields hop hpayload⟩
  case pos => exact ⟨rfl, encode_open_of_fields hop hreserved⟩
  case pos => exact ⟨rfl, encode_close_of_fields hop hpayload⟩
  case pos => exact ⟨rfl, encode_advance_of_op hop⟩
  case pos => exact ⟨decide_eq_true hidx, encode_csrRead_of_fields hop hreserved⟩

theorem encode_of_decodeRequest {w : Word} {i : Instr} (h : decodeRequest w = .instr i) : i.wf = true ∧ encode i = w := by
  simp only [decodeRequest] at h
  split_ifs at h with hop
  cases h
  exact ⟨rfl, encode_sinkReq_of_op hop⟩

theorem decodeOn_eq_iff (p : Port) (w : Word) (i : Instr) :
    decodeOn p w = .instr i ↔ i.port = p ∧ i.wf = true ∧ encode i = w := by
  constructor
  · intro h
    cases p with
    | command => exact ⟨decodeCommand_port h, encode_of_decodeCommand h⟩
    | consumer => exact ⟨by rw [decodeRequest_sink h]; rfl, encode_of_decodeRequest h⟩
  · rintro ⟨rfl, hwf, rfl⟩
    exact decodeOn_encode hwf

/-! ### The rows of the opcode table -/

/-- R80: a word's opcode names its port, and every instruction's word is on the instruction's own. -/
theorem portOf_encode (i : Instr) : portOf (encode i) = i.port := by
  have hop : opField (encode i) = i.opcode := by
    cases i with
    | nop => exact Laws.OpField.nop
    | openEngine noDev req => exact Laws.OpField.openEngine noDev req
    | closeEngine => exact Laws.OpField.closeEngine
    | advance cycles => exact Laws.OpField.advance cycles
    | csrRead idx => exact Laws.OpField.csrRead idx
    | sinkReq len => exact Laws.OpField.sinkReq len
  rw [portOf, hop]
  cases i <;> rfl

theorem decodeOn_portOf_eq_iff (w : Word) (i : Instr) :
    decodeOn (portOf w) w = .instr i ↔ i.wf = true ∧ encode i = w := by
  rw [decodeOn_eq_iff]
  constructor
  · exact fun ⟨_, h⟩ => h
  · rintro ⟨hwf, rfl⟩
    exact ⟨(portOf_encode i).symm, hwf, rfl⟩

/-- The row of each instruction in the opcode table. -/
def rowOf : Instr → OpcodeRow
  | .nop => ⟨"NOP", 0x00000000#32, 0xFFFFFFFF#32⟩
  | .openEngine _ _ => ⟨"OPEN", 0x10000000#32, 0xF7000000#32⟩
  | .closeEngine => ⟨"CLOSE", 0x20000000#32, 0xFFFFFFFF#32⟩
  | .advance _ => ⟨"ADVANCE", 0x30000000#32, 0xF0000000#32⟩
  | .csrRead _ => ⟨"CSR_READ", 0x40000000#32, 0xFFFFFF00#32⟩
  | .sinkReq _ => ⟨"SINK_REQ", 0x80000000#32, 0xF0000000#32⟩

theorem rowOf_mnemonic (i : Instr) : (rowOf i).mnemonic = i.mnemonic := by
  cases i <;> rfl

/-- No two rows have the same mnemonic. -/
theorem row_eq_of_mnemonic : ∀ r ∈ opcodeRows, ∀ r' ∈ opcodeRows, r.mnemonic = r'.mnemonic → r = r' := by decide

theorem rowOf_mem (i : Instr) : rowOf i ∈ opcodeRows := by
  cases i <;> simp [rowOf, opcodeRows]

/-- A mask of OP and payload bits, cut where the word is. -/
theorem word_and_word (op op' : BitVec 4) (payload payload' : BitVec 28) :
    ((op ++ payload : Word) &&& (op' ++ payload' : Word)) = (op &&& op') ++ (payload &&& payload') :=
  BitVec.and_append

/-- OPEN's mask leaves its reserved bits and hides NONE and REQ. -/
theorem openPayload_and_mask (noDev : Bool) (req : BitVec 24) :
    ((BitVec.ofBool noDev ++ (0#3 ++ req) : BitVec 28) &&& (0#1 ++ (7#3 ++ 0#24) : BitVec 28)) = 0#28 := by
  change (BitVec.ofBool noDev ++ (0#3 ++ req)) &&& (0#1 ++ (7#3 ++ 0#24)) = (0 : BitVec (1 + (3 + 24)))
  rw [BitVec.and_append, BitVec.and_append, BitVec.and_zero, BitVec.and_zero]
  rfl

/-- CSR_READ's mask leaves its reserved bits and hides IDX. -/
theorem csrPayload_and_mask (idx : BitVec 8) :
    ((0#20 ++ idx : BitVec 28) &&& (0xFFFFF#20 ++ 0#8 : BitVec 28)) = 0#28 := by
  change (0#20 ++ idx) &&& (0xFFFFF#20 ++ 0#8) = (0 : BitVec (20 + 8))
  rw [BitVec.and_append, BitVec.and_zero]
  rfl

theorem rowOf_matches_encode (i : Instr) : (rowOf i).matchesWord (encode i) = true := by
  apply decide_eq_true
  cases i with
  | nop | closeEngine => rfl
  | openEngine noDev req =>
    change (0x1#4 ++ (BitVec.ofBool noDev ++ (0#3 ++ req)) : Word) &&& (0xF#4 ++ (0#1 ++ (7#3 ++ 0#24)) : Word) = _
    rw [word_and_word, openPayload_and_mask]
    rfl
  | advance cycles =>
    change (0x3#4 ++ cycles : Word) &&& (0xF#4 ++ 0#28 : Word) = _
    rw [word_and_word, BitVec.and_zero]
    rfl
  | csrRead idx =>
    change (0x4#4 ++ (0#20 ++ idx) : Word) &&& (0xF#4 ++ (0xFFFFF#20 ++ 0#8) : Word) = _
    rw [word_and_word, csrPayload_and_mask]
    rfl
  | sinkReq len =>
    change (0x8#4 ++ len : Word) &&& (0xF#4 ++ 0#28 : Word) = _
    rw [word_and_word, BitVec.and_zero]
    rfl

/-- Where a mask holds all of a field, a match fixes the field. -/
theorem extractLsb'_of_and_eq {w mask pattern : Word} (h : w &&& mask = pattern) (start len : Nat)
    (hmask : mask.extractLsb' start len = BitVec.allOnes len) :
    w.extractLsb' start len = pattern.extractLsb' start len := by
  rw [← h, BitVec.extractLsb'_and, hmask, BitVec.and_allOnes]

/-- A word of a row is the word of an instruction of the row, its operands in the bits that the mask hides. -/
theorem exists_encode_of_matches {r : OpcodeRow} {w : Word} (hr : r ∈ opcodeRows) (h : r.matchesWord w = true) :
    ∃ i, i.mnemonic = r.mnemonic ∧ encode i = w := by
  have hfield := extractLsb'_of_and_eq (of_decide_eq_true h)
  simp only [opcodeRows, List.mem_cons, List.not_mem_nil, or_false] at hr
  rcases hr with rfl | rfl | rfl | rfl | rfl | rfl
  · exact ⟨.nop, rfl, encode_nop_of_fields (hfield 28 4 rfl) (hfield 0 28 rfl)⟩
  · exact ⟨_, rfl, encode_open_of_fields (hfield 28 4 rfl) (hfield 24 3 rfl)⟩
  · exact ⟨.closeEngine, rfl, encode_close_of_fields (hfield 28 4 rfl) (hfield 0 28 rfl)⟩
  · exact ⟨_, rfl, encode_advance_of_op (hfield 28 4 rfl)⟩
  · exact ⟨_, rfl, encode_csrRead_of_fields (hfield 28 4 rfl) (hfield 8 20 rfl)⟩
  · exact ⟨_, rfl, encode_sinkReq_of_op (hfield 28 4 rfl)⟩

/-- The check of R54 on the word: only CSR_READ has one, of its low byte. -/
theorem wf_iff_word (i : Instr) : i.wf = true ↔ (i.mnemonic = "CSR_READ" → (encode i).toNat % 256 ≤ 0x0A) := by
  cases i with
  | csrRead idx =>
    have hidx : (encode (.csrRead idx)).toNat % 256 = idx.toNat :=
      (idxField_toNat _).symm.trans (congrArg BitVec.toNat (idxField_csrRead idx))
    simp only [Instr.wf, decide_eq_true_eq, Instr.mnemonic, forall_const, hidx]
    rfl
  | nop | openEngine | closeEngine | advance | sinkReq => simp [Instr.wf, Instr.mnemonic]

/-! ### The statements -/

/-- Settles O1: on each port the opcode leads to the instruction's branch, and every field comes back. -/
theorem decodeInvertsEncode : Obligations.DecodeInvertsEncode := by
  unfold Obligations.DecodeInvertsEncode
  exact fun i hwf => decodeOn_encode hwf

/-- Settles O2: the branch that gives an instruction has checked every bit that the instruction does not hold. -/
theorem encodeInvertsDecode : Obligations.EncodeInvertsDecode := by
  unfold Obligations.EncodeInvertsDecode
  exact fun p w i h => (decodeOn_eq_iff p w i).1 h

/-- Settles O4: the decoder's instruction is the one whose word it is, and its row is the one of its mnemonic. -/
theorem opcodeTableIsTheDecoder : Obligations.OpcodeTableIsTheDecoder := by
  unfold Obligations.OpcodeTableIsTheDecoder
  intro w r hr
  simp only [decodeOn_portOf_eq_iff]
  constructor
  · rintro ⟨i, ⟨hwf, rfl⟩, hname⟩
    obtain rfl := row_eq_of_mnemonic _ (rowOf_mem i) r hr ((rowOf_mnemonic i).trans hname)
    exact ⟨rowOf_matches_encode i, hname ▸ (wf_iff_word i).1 hwf⟩
  · rintro ⟨hmatch, hcsr⟩
    obtain ⟨i, hname, rfl⟩ := exists_encode_of_matches hr hmatch
    exact ⟨i, ⟨(wf_iff_word i).2 (hname ▸ hcsr), rfl⟩, hname⟩

/-- Settles O5: ten closed words. -/
theorem tabledWordsDecode : Obligations.TabledWordsDecode := by
  unfold Obligations.TabledWordsDecode
  decide

end Sys2Proof.Machine
end

section
/-! PROOFS. The fill level and its two views under the invariant (R38 to R41), the reservation (R116), what STATUS.RUN and
STATUS.ACK say when a command can be accepted (R46), and the statements about them: O25, O28 and O45. -/

namespace Sys2Proof.Machine

open Sys2Proof

/-! ### The fill level -/

theorem count_of_window {s : State} (hwindow : s.closeWindow = true) : s.count = 0 :=
  if_pos hwindow

theorem count_of_not_window {s : State} (hwindow : s.closeWindow = false) :
    s.count = ptrDist s.p.wrCnt s.c.rdCnt :=
  if_neg (by simp [hwindow])

theorem State.Inv.not_window_of_shut {s : State} (hinv : s.Inv) (hopen : s.p.eng ≠ .opened) : s.closeWindow = false :=
  not_closeWindow_of_phase fun hphase => hopen (hinv.busyOpen (.inr hphase))

/-- A shut engine has an empty ring, and both views of it are empty. -/
theorem State.Inv.empty_of_shut {s : State} (hinv : s.Inv) (hopen : s.p.eng ≠ .opened) :
    s.count = 0 ∧ s.countP = 0 ∧ (s.c.ackC = true → s.countC = 0) := by
  obtain ⟨hwr, hrd, -, -, hrdSeen, -, -, hwrSeen⟩ := hinv.shutPointers hopen
  refine ⟨?_, by rw [State.countP, hwr, hrdSeen, ptrDist_self], fun hack => ?_⟩
  · rw [count_of_not_window (hinv.not_window_of_shut hopen), hwr, hrd, ptrDist_self]
  · rw [State.countC, hwrSeen hack, hrd, ptrDist_self]

/-- The fill level of a live ring lies between its two views, which lie between 0 and capacity. -/
theorem State.Inv.count_of_live {s : State} (hinv : s.Inv) (hlive : s.live) :
    s.count = ptrDist s.p.wrCnt s.c.rdCnt ∧ s.countC ≤ s.count ∧ s.count ≤ s.countP ∧
    s.countP ≤ s.p.capacity.toNat := by
  obtain ⟨-, -, hfull, hrd, hwr, -⟩ := hinv.livePointers hlive
  have hcount := count_of_not_window (not_closeWindow_of_ackC hlive.2)
  have hsplit : s.countP = ptrDist s.p.wrCnt s.c.rdCnt + ptrDist s.c.rdCnt s.p.rdSeen := ptrDist_split hrd
  exact ⟨hcount, by omega, by omega, hfull⟩

theorem State.Inv.shut_or_live {s : State} (hinv : s.Inv) (hwindow : s.closeWindow = false) :
    s.p.eng ≠ .opened ∨ s.live := by
  by_cases hopen : s.p.eng = .opened
  · exact .inr ((hinv.live_or_window hopen).resolve_right (by simp [hwindow]))
  · exact .inl hopen

theorem State.Inv.count_le_countP {s : State} (hinv : s.Inv) (hwindow : s.closeWindow = false) :
    s.count ≤ s.countP ∧ s.countP ≤ s.p.capacity.toNat := by
  obtain hopen | hlive := hinv.shut_or_live hwindow
  · obtain ⟨hcount, hcountP, -⟩ := hinv.empty_of_shut hopen
    omega
  · obtain ⟨-, -, hcount, hcountP⟩ := hinv.count_of_live hlive
    exact ⟨hcount, hcountP⟩

theorem State.Inv.count_le_capacity {s : State} (hinv : s.Inv) : s.count ≤ s.p.capacity.toNat := by
  cases hwindow : s.closeWindow with
  | true => rw [count_of_window hwindow]; exact Nat.zero_le _
  | false =>
    obtain ⟨hcount, hcountP⟩ := hinv.count_le_countP hwindow
    exact hcount.trans hcountP

theorem State.Inv.countC_le_count {s : State} (hinv : s.Inv) (hack : s.c.ackC = true) : s.countC ≤ s.count := by
  by_cases hopen : s.p.eng = .opened
  · obtain ⟨-, hcountC, -, -⟩ := hinv.count_of_live ⟨hopen, hack⟩
    exact hcountC
  · obtain ⟨-, -, hcountC⟩ := hinv.empty_of_shut hopen
    rw [hcountC hack]
    exact Nat.zero_le _

/-- The write index is `count` slots after the read index. -/
theorem State.Inv.writeIndex_eq {s : State} (hinv : s.Inv) (hwindow : s.closeWindow = false) :
    (s.c.readIndex.toNat + s.count) % s.p.capacity.toNat = s.p.writeIndex.toNat := by
  obtain hopen | hlive := hinv.shut_or_live hwindow
  · obtain ⟨-, -, hwrite, hread, -⟩ := hinv.shutPointers hopen
    obtain ⟨hcount, -⟩ := hinv.empty_of_shut hopen
    simp [hwrite, hread, hcount]
  · obtain ⟨-, -, -, -, -, hindex⟩ := hinv.livePointers hlive
    rw [hindex, count_of_not_window hwindow]

/-! ### The reservation -/

theorem tryReserve_iff (s : State) : tryReserve s = true ↔ s.countP < s.p.capacity.toNat :=
  decide_eq_true_iff

/-! ### The statements -/

/-- Settles O25: the fill level is at most the producer's view, and equals it once that has caught up. -/
theorem reservationIsConservative : Obligations.ReservationIsConservative := by
  unfold Obligations.ReservationIsConservative
  intro s hinv hopen hwindow
  have hlive := (hinv.shut_or_live hwindow).resolve_left (not_not.2 hopen)
  obtain ⟨hcount, -, hle, -⟩ := hinv.count_of_live hlive
  refine ⟨?distance, fun hfull => ?full, fun hseen => ?settled⟩
  case distance =>
    have hdist : s.countP = (s.p.wrCnt.toNat + 2048 - s.p.rdSeen.toNat) % 2048 := by
      rw [State.countP, ptrDist_eq]
      omega
    rw [tryReserve_iff, hdist]
  case full => exact decide_eq_false (by omega)
  case settled => rw [tryReserve_iff, hcount, State.countP, hseen]

/-- Settles O28: each bound by the kind of state: shut, live, or inside a CLOSE window. -/
theorem fillLevelsAreBounded : Obligations.FillLevelsAreBounded := by
  unfold Obligations.FillLevelsAreBounded
  exact fun s hinv => ⟨hinv.count_le_capacity, hinv.count_le_countP, hinv.countC_le_count,
    fun hcap => ⟨writeIndex_lt_capacity hinv hcap, readIndex_lt_capacity hinv hcap⟩, fun _ hwindow => hinv.writeIndex_eq hwindow⟩

/-- Settles O45: an idle engine is open with its handshake risen, or shut with it fallen. -/
theorem runAndAckMeanOpenWhenIdle : Obligations.RunAndAckMeanOpenWhenIdle := by
  unfold Obligations.RunAndAckMeanOpenWhenIdle
  intro s hinv hidle
  refine ⟨by simpa [hidle] using hinv.runWhen, ?ack⟩
  case ack =>
    by_cases hopen : s.p.eng = .opened
    · obtain ⟨-, -, hseen⟩ := hinv.openRuns ⟨hopen, by simp [hidle]⟩
      exact iff_of_true hseen hopen
    · obtain ⟨-, -, hseen⟩ := hinv.shutStill ⟨hopen, by simp [hidle]⟩
      exact iff_of_false (by simp [hseen]) hopen

end Sys2Proof.Machine
end

section
/-! PROOFS. The frame buffers a write puts into a slot and leaves in the others, what a publish and a release do to the
ring's contents, what keeps them, and the statement that the ring is a queue (R123): O29. -/

namespace Sys2Proof.Machine

open Sys2Proof

/-! ### A written slot -/

theorem read_writeFrames_inside {size a : Nat} {m m' : Memory} {ws : List Word} (h : writeFrames size m a ws = .ok m')
    (e i : Nat) (hi : i < ws.length) : m'.read e (a + i) = ws[i] := by
  obtain ⟨-, -, hin, -⟩ := writeFrames_spec h
  simp [Memory.read, hin i hi]

theorem read_writeFrames_outside {size a b : Nat} {m m' : Memory} {ws : List Word}
    (h : writeFrames size m a ws = .ok m') (e : Nat) (hb : b < a ∨ a + ws.length ≤ b) :
    m'.read e b = m.read e b := by
  obtain ⟨-, -, -, hout⟩ := writeFrames_spec h
  simp [Memory.read, hout b hb]

/-- The state after a frame buffer was written to a slot. -/
structure WritesSlot (s t : State) (slot : Nat) (ws : List Word) : Prop where
  params : t.params = s.params
  epoch  : t.ramEpoch = s.ramEpoch
  whole  : ws.length = s.params.fblen
  writes : writeFrames s.params.ramWords s.ram (frameAddr s.params slot 0) ws = .ok t.ram

theorem WritesSlot.slotFrames_same {s t : State} {slot : Nat} {ws : List Word} (h : WritesSlot s t slot ws) :
    t.slotFrames slot = ws := by
  apply List.ext_getElem
  · simp [State.slotFrames, h.params, h.whole]
  · intro i _ hi
    have hread := read_writeFrames_inside h.writes s.ramEpoch i hi
    simpa [State.slotFrames, State.ramRead, frameAddr, h.params, h.epoch] using hread

theorem WritesSlot.slotFrames_other {s t : State} {slot slot' : Nat} {ws : List Word} (h : WritesSlot s t slot ws)
    (hne : slot' ≠ slot) : t.slotFrames slot' = s.slotFrames slot' := by
  simp only [State.slotFrames, h.params]
  refine List.map_congr_left fun i hi => ?_
  have hi := List.mem_range.1 hi
  rw [State.ramRead, h.epoch]
  refine read_writeFrames_outside h.writes s.ramEpoch ?_
  rw [h.whole]
  by_contra hinside
  have haddr : frameAddr s.params slot' i =
      frameAddr s.params slot (frameAddr s.params slot' i - frameAddr s.params slot 0) := by
    simp only [frameAddr] at hinside ⊢
    omega
  obtain ⟨hslot, -⟩ := frameAddr_inj hi (by omega) haddr
  exact hne hslot

/-! ### The queue -/

theorem pendingBuffers_nil {s : State} (h : s.count = 0) : s.pendingBuffers = [] := by
  simp [State.pendingBuffers, h]

/-- Everything the ring's contents depend on is the same. -/
structure SameRing (s t : State) : Prop where
  window    : t.closeWindow = s.closeWindow
  wrCnt     : t.p.wrCnt = s.p.wrCnt
  rdCnt     : t.c.rdCnt = s.c.rdCnt
  readIndex : t.c.readIndex = s.c.readIndex
  capacity  : t.p.capacity = s.p.capacity
  params    : t.params = s.params
  ram       : t.ram = s.ram
  epoch     : t.ramEpoch = s.ramEpoch

theorem SameRing.pendingBuffers {s t : State} (h : SameRing s t) : t.pendingBuffers = s.pendingBuffers := by
  simp only [State.pendingBuffers, State.count, State.slotFrames, State.ramRead, h.window, h.wrCnt, h.rdCnt, h.readIndex,
    h.capacity, h.params, h.ram, h.epoch]

/-- Slots at different distances below the capacity are different. -/
theorem slot_ne {r i j cap : Nat} (hi : i < j) (hj : j < cap) : (r + i) % cap ≠ (r + j) % cap := by
  intro h
  have hmod : i ≡ j [MOD cap] := Nat.ModEq.add_left_cancel' r h
  exact hi.ne (hmod.eq_of_lt_of_lt (hi.trans hj) hj)

/-- R123: a publish appends what was written to slot `writeIndex`. -/
theorem pendingBuffers_publish {s t : State} {ws : List Word} (hinv : s.Inv) (hwindow : s.closeWindow = false)
    (hroom : s.count < s.p.capacity.toNat) (hwrites : WritesSlot s t s.p.writeIndex.toNat ws)
    (hcount : t.count = s.count + 1) (hread : t.c.readIndex = s.c.readIndex) (hcap : t.p.capacity = s.p.capacity) :
    t.pendingBuffers = s.pendingBuffers ++ [ws] := by
  have hlast := hinv.writeIndex_eq hwindow
  rw [State.pendingBuffers, hcount, List.range_succ, List.map_append, hread, hcap, List.map_singleton, hlast,
    hwrites.slotFrames_same, State.pendingBuffers]
  congr 1
  refine List.map_congr_left fun j hj => hwrites.slotFrames_other ?_
  rw [← hlast]
  exact slot_ne (List.mem_range.1 hj) hroom

/-- R123: a release removes slot `readIndex`. -/
theorem pendingBuffers_release {s : State} (hinv : s.Inv) (hack : s.c.ackC = true) (hdata : s.countC ≠ 0) :
    s.pendingBuffers = s.slotFrames s.c.readIndex.toNat :: (release s).pendingBuffers := by
  have hcount := hinv.countC_le_count hack
  have hread := readIndex_lt_capacity hinv (capacity_ne_zero_of_ackC hinv hack)
  have hless : s.count = (release s).count + 1 := by
    have hwindow := not_closeWindow_of_ackC hack
    have hwindow' : (release s).closeWindow = false := hwindow
    rw [count_of_not_window hwindow] at hcount ⊢
    rw [count_of_not_window hwindow', release_p, release_c, ptrDist_add_one_right (by omega)]
    omega
  rw [State.pendingBuffers, hless, List.range_succ_eq_map, List.map_cons, List.map_map, Nat.add_zero,
    Nat.mod_eq_of_lt hread, State.pendingBuffers]
  congr 1
  refine List.map_congr_left fun j _ => ?_
  rw [Function.comp_apply, release_c, release_p, nextIndex_toNat hread, Nat.mod_add_mod,
    Nat.add_assoc, Nat.add_comm 1 j]
  rfl

/-! ### Moves that leave the queue alone -/

theorem count_openSuccess {s : State} (hrd : s.c.rdCnt = 0) (cap : Nat) : (openSuccess cap s).count = 0 := by
  rw [count_of_not_window (not_closeWindow_of_phase (by simp)), openSuccess_p, openSuccess_c, hrd, ptrDist_self]

theorem count_closeComplete {s : State} (hrd : s.c.rdCnt = 0) : (closeComplete s).count = 0 := by
  rw [count_of_not_window (not_closeWindow_of_phase (by simp)), closeComplete_p, closeComplete_c, hrd, ptrDist_self]

/-- A command leaves the ring's contents: an OPEN resets pointers that are 0, and a CLOSE does not begin its window. -/
theorem pendingBuffers_exec {i : Instr} {s t : State} (hinv : s.Inv) (hport : i.port = .command)
    (hready : s.cmdReady = true) (h : exec i s = .next t) : t.pendingBuffers = s.pendingBuffers := by
  obtain ⟨hidle, -⟩ := (cmdReady_iff s).1 hready
  have hwindow : s.closeWindow = false := not_closeWindow_of_phase (by simp [hidle])
  cases i with
  | nop => cases h; rfl
  | openEngine noDev req =>
    obtain ⟨-, rfl⟩ | ⟨-, rfl⟩ | ⟨hshut, -, hopen⟩ := execOpen_cases h
    · rfl
    · rfl
    · obtain ⟨-, rfl⟩ | ⟨-, -, rfl⟩ | ⟨-, -, -, rfl⟩ | ⟨-, -, -, rfl⟩ := hopen
      · rfl
      · rfl
      · rfl
      · obtain ⟨-, hopen⟩ := not_fault_not_opened_of_shut hshut
        obtain ⟨hcount, -⟩ := hinv.empty_of_shut hopen
        obtain ⟨-, hrd, -⟩ := hinv.shutPointers hopen
        rw [pendingBuffers_nil hcount, pendingBuffers_nil (count_openSuccess hrd _)]
  | closeEngine =>
    obtain ⟨-, rfl⟩ | ⟨-, -, rfl⟩ | ⟨hopen, rfl⟩ := execClose_cases h
    · rfl
    · rfl
    · obtain ⟨-, hack, -⟩ := hinv.openRuns ⟨hopen, by simp [hidle]⟩
      have hwindow' : (closeSequence s).closeWindow = false := not_closeWindow_of_ackC hack
      exact SameRing.pendingBuffers ⟨hwindow'.trans hwindow.symm, rfl, rfl, rfl, rfl, rfl, rfl, rfl⟩
  | advance cycles =>
    obtain ⟨-, rfl⟩ | ⟨-, -, rfl⟩ | ⟨-, rfl⟩ := execAdvance_cases h
    · rfl
    · rfl
    · exact SameRing.pendingBuffers ⟨hwindow.symm, rfl, rfl, rfl, rfl, rfl, rfl, rfl⟩
  | csrRead idx => obtain ⟨v, -, rfl⟩ | ⟨-, rfl⟩ := execCsrRead_cases h <;> rfl
  | sinkReq len => cases hport

theorem pendingBuffers_accept {s t : State} (hinv : s.Inv) (h : stepAccept s = .next t) :
    t.pendingBuffers = s.pendingBuffers := by
  have htaken : State.Inv { s with env.cmd := none } := { hinv with }
  obtain rfl | ⟨hready, w, -, ⟨i, hdec, h⟩ | ⟨r, -, rfl⟩⟩ := stepAccept_cases h
  · rfl
  · have hsame := pendingBuffers_exec htaken (decodeCommand_port hdec) hready h
    exact hsame
  · rfl

/-- A trigger that does not publish: it holds, or drops its frames. -/
theorem pendingBuffers_trigger {s t : State} (hpub : s.publishes = false) (h : stepTrigger s = .next t) :
    t.pendingBuffers = s.pendingBuffers := by
  obtain ⟨hdue, hready, u, hu, rfl⟩ | ⟨-, rfl⟩ := stepTrigger_cases h
  · obtain ⟨hroom, -⟩ | ⟨-, rfl⟩ := trigger_cases hu
    · simp [(publishes_iff s).2 ⟨hdue, hready, hroom⟩] at hpub
    · rfl
  · rfl

theorem pendingBuffers_finishAdvance (s : State) : (stepFinishAdvance s).pendingBuffers = s.pendingBuffers := by
  obtain ⟨hphase, -, e⟩ | e := stepFinishAdvance_cases s <;> rw [e]
  have hwindow : s.closeWindow = false := not_closeWindow_of_phase (by simp [hphase])
  exact SameRing.pendingBuffers ⟨hwindow.symm, rfl, rfl, rfl, rfl, rfl, rfl, rfl⟩

/-- The end of an OPEN leaves the pointers; the end of a CLOSE is the end of its window, in which the ring is empty. -/
theorem pendingBuffers_finishHandshake {s : State} (hinv : s.Inv) :
    (stepFinishHandshake s).pendingBuffers = s.pendingBuffers := by
  obtain ⟨hphase, -, e⟩ | ⟨hphase, hseen, -, e⟩ | e := stepFinishHandshake_cases s <;> rw [e]
  · have hwindow : s.closeWindow = false := not_closeWindow_of_phase (by simp [hphase])
    exact SameRing.pendingBuffers ⟨hwindow.symm, rfl, rfl, rfl, rfl, rfl, rfl, rfl⟩
  · obtain ⟨-, hackOfSeen⟩ := hinv.closingOrder hphase
    have hwindow := (closeWindow_eq_true_iff s).2 ⟨hphase, hackOfSeen hseen⟩
    obtain ⟨hrd, -⟩ := hinv.windowPointers hwindow
    rw [pendingBuffers_nil (count_of_window hwindow), pendingBuffers_nil (count_closeComplete hrd)]

theorem pendingBuffers_start {s : State} (hinv : s.Inv) : (stepStart s).pendingBuffers = s.pendingBuffers := by
  obtain ⟨hack, hrun, -, e⟩ | e := stepStart_cases s <;> rw [e]
  obtain ⟨-, hopen⟩ := hinv.opening_of_startable hack hrun
  have hwindow : State.closeWindow { s with c.ackC := true } = false := not_closeWindow_of_ackC rfl
  exact SameRing.pendingBuffers ⟨hwindow.trans (hinv.not_window_of_shut hopen).symm, rfl, rfl, rfl, rfl, rfl, rfl, rfl⟩

theorem pendingBuffers_syncRd (n : Nat) (s : State) : (syncRd n s).pendingBuffers = s.pendingBuffers := by
  unfold syncRd
  split_ifs <;> rfl

theorem pendingBuffers_syncWr (n : Nat) (s : State) : (syncWr n s).pendingBuffers = s.pendingBuffers := by
  unfold syncWr
  split_ifs <;> rfl

/-- Every move but a sink request, a reset, a publishing trigger and a consumer stop leaves the ring's contents. -/
theorem pendingBuffers_perform {m : Move} {s t : State} (hinv : s.Inv) (h : perform m s = .next t) (hsink : m ≠ .sink)
    (hreset : moveIsReset m = false) (hpub : m = .trigger → s.publishes = false)
    (hstop : m = .stop → s.c.ackC = false ∨ s.c.runSeen = true) : t.pendingBuffers = s.pendingBuffers := by
  cases m with
  | accept => exact pendingBuffers_accept hinv h
  | trigger => exact pendingBuffers_trigger (hpub rfl) h
  | finishAdvance => cases h; exact pendingBuffers_finishAdvance s
  | finishHandshake => cases h; exact pendingBuffers_finishHandshake hinv
  | start => cases h; exact pendingBuffers_start hinv
  | stop =>
    cases h
    obtain ⟨hack, hrun, -⟩ | e := stepStop_cases s
    · simp [hack, hrun] at hstop
    · rw [e]
  | syncRd n => cases h; exact pendingBuffers_syncRd n s
  | syncWr n => cases h; exact pendingBuffers_syncWr n s
  | hostDrive cmd => obtain rfl | rfl := driveCommand_cases h <;> rfl
  | deviceDrive req => obtain rfl | rfl := driveRequest_cases h <;> rfl
  | sourceDeliver k frames => cases h; cases k <;> rfl
  | hostTake | platform | syncRun | syncAck | syncDiag => cases h; rfl
  | sink => exact absurd rfl hsink
  | reset cut => cases hreset
  | crossingViolation | ramOrderViolation => cases h

/-! ### Moves that change the queue -/

/-- A publish raises the fill level by 1. -/
theorem count_afterPublish {s : State} (hinv : s.Inv) (hpub : s.publishes = true) (m : Memory) :
    (afterPublish s m).count = s.count + 1 := by
  obtain ⟨hdue, -, hroom⟩ := (publishes_iff s).1 hpub
  obtain ⟨hphase, -⟩ := (triggerDue_iff s).1 hdue
  obtain ⟨hcount, -, hle, -⟩ := hinv.count_of_live (hinv.live_of_advancing hphase)
  have hroom := (tryReserve_iff s).1 hroom
  have hcap := hinv.capOpen (.inl (hinv.busyOpen (.inl hphase)))
  have hmax := (capacity_le_maxCapImpl hinv hcap).trans (maxCapImpl_le hinv.legal)
  have hphase' : (afterPublish s m).p.phase = .advancing := hphase
  have hsucc : ptrDist (s.p.wrCnt + 1) s.c.rdCnt = ptrDist s.p.wrCnt s.c.rdCnt + 1 := ptrDist_add_one_left (by omega)
  rw [count_of_not_window (not_closeWindow_of_phase (by simp [hphase'])), hcount]
  exact hsucc

/-- A publishing trigger appends its mixed frame buffer. -/
theorem pendingBuffers_publishing {s t : State} (hinv : s.Inv) (hpub : s.publishes = true)
    (h : stepTrigger s = .next t) : t.pendingBuffers = s.pendingBuffers ++ [mixedBuffer s] := by
  obtain ⟨hdue, hready, hroom⟩ := (publishes_iff s).1 hpub
  obtain ⟨hphase, -⟩ := (triggerDue_iff s).1 hdue
  obtain ⟨m, hm, hnext⟩ := stepTrigger_publishes hinv hpub
  rw [hnext] at h
  cases h
  obtain ⟨-, -, hle, -⟩ := hinv.count_of_live (hinv.live_of_advancing hphase)
  exact pendingBuffers_publish hinv (not_closeWindow_of_phase (by simp [hphase]))
    (hle.trans_lt ((tryReserve_iff s).1 hroom)) ⟨rfl, rfl, mixedBuffer_length hready, hm⟩
    (count_afterPublish hinv hpub m) rfl rfl

/-- The words that a running consumer reads are its slot's. -/
theorem readFrames_slot {s : State} (hslot : s.c.readIndex.toNat < s.params.maxCapImpl) :
    readFrames s.params.ramWords s.ram s.ramEpoch (frameAddr s.params s.c.readIndex.toNat 0) s.params.fblen =
      .ok (s.slotFrames s.c.readIndex.toNat) := by
  rw [readFrames_eq _ _ _ _ _ (slot_in_ram hslot)]
  simp [State.slotFrames, State.ramRead, frameAddr]

/-- A request answers with the oldest buffer and removes it, or answers without data and leaves the ring. -/
theorem pendingBuffers_sink {s t : State} (hinv : s.Inv) (hquiet : s.out.answer = none) (h : stepSink s = .next t) :
    (∃ b, t.out.answer = some (.buffer b) ∧ s.pendingBuffers = b :: t.pendingBuffers) ∨
    ((∀ b, t.out.answer ≠ some (.buffer b)) ∧ t.pendingBuffers = s.pendingBuffers) := by
  obtain ⟨-, rfl⟩ | ⟨w, -, ⟨i, hdec, h⟩ | ⟨r, -, rfl⟩⟩ := stepSink_cases h
  · exact .inr ⟨by simp [hquiet], rfl⟩
  · rw [decodeRequest_sink hdec] at h
    obtain ⟨-, rfl⟩ | ⟨-, h⟩ := execSinkReq_cases h
    · exact .inr ⟨by simp, rfl⟩
    · obtain ⟨-, rfl⟩ | ⟨hack, hdata, ws, hws, rfl⟩ := serveRequest_cases h
      · exact .inr ⟨by simp, rfl⟩
      · refine .inl ⟨ws, rfl, ?_⟩
        have hcap := capacity_ne_zero_of_ackC hinv hack
        have hread := readFrames_slot (readIndex_lt_maxCapImpl hinv hcap)
        rw [Except.ok.inj (hws.symm.trans hread)]
        exact pendingBuffers_release hinv hack hdata
  · exact .inr ⟨by simp, rfl⟩

/-- The stop begins the CLOSE window, in which the ring is empty (R38, R136). -/
theorem closeWindow_stepStop {s : State} (hinv : s.Inv) (hack : s.c.ackC = true) (hrun : s.c.runSeen = false) :
    (stepStop s).closeWindow = true := by
  obtain ⟨hphase, -⟩ := hinv.closing_of_stoppable hack hrun
  rw [stepStop, if_pos ⟨hack, hrun⟩]
  exact (closeWindow_eq_true_iff _).2 ⟨hphase, rfl⟩

/-! ### The statement -/

/-- Settles O29: the three moves that change the ring's contents, and every other move. -/
theorem ringRefinesAQueue : Obligations.RingRefinesAQueue := by
  unfold Obligations.RingRefinesAQueue
  intro m s t hinv h
  refine ⟨?publish, ?sink, ?stop, ?reset, pendingBuffers_perform hinv h⟩
  case publish => rintro rfl hpub; exact pendingBuffers_publishing hinv hpub h
  case sink => rintro rfl hquiet; exact pendingBuffers_sink hinv hquiet h
  case stop =>
    rintro rfl hack hrun
    cases h
    exact pendingBuffers_nil (count_of_window (closeWindow_stepStop hinv hack hrun))
  case reset =>
    intro hreset
    cases m with
    | reset cut => cases h; exact pendingBuffers_nil (by simp [State.count, State.closeWindow, Producer.reset, Consumer.reset])
    | _ => cases hreset

end Sys2Proof.Machine
end

section
/-! PROOFS. What a trigger takes and counts, whether it publishes or drops (R96, R97, R106, R113), and the statements about
a trigger step: O20, O21 and O22. -/

namespace Sys2Proof.Machine

open Sys2Proof

/-! ### What every trigger does -/

theorem takeThresh_toNat (s : State) : (takeThresh s).p.audAcc.toNat = s.p.audAcc.toNat - s.params.thresh := by
  have hlt := s.p.audAcc.isLt
  rw [takeThresh_p, BitVec.toNat_ofNat, Nat.mod_eq_of_lt (by omega)]

/-- What a trigger does to the accumulators, the counters and the sources, whether or not it publishes. -/
structure Triggered (s t : State) : Prop where
  params    : t.params = s.params
  phase     : t.p.phase = s.p.phase
  audAcc    : t.p.audAcc.toNat = s.p.audAcc.toNat - s.params.thresh
  cpuAcc    : t.p.cpuAcc = s.p.cpuAcc
  trigCount : t.p.trigCount = s.p.trigCount + 1
  advTrigs  : t.p.advTrigs = s.p.advTrigs + 1
  env       : t.env = { s.env with psg := s.env.psg.drop s.params.fblen, pcm := s.env.pcm.drop s.params.fblen,
                                   fm := s.env.fm.drop s.params.fblen }

theorem triggered_afterDrop (s : State) : Triggered s (afterDrop s) :=
  ⟨rfl, rfl, takeThresh_toNat s, rfl, rfl, rfl, rfl⟩

theorem triggered_afterPublish (s : State) (m : Memory) : Triggered s (afterPublish s m) :=
  ⟨rfl, rfl, takeThresh_toNat s, rfl, rfl, rfl, rfl⟩

theorem stepTrigger_triggers {s : State} (hinv : s.Inv) (hdue : triggerDue s = true) (hready : sourcesReady s = true) :
    ∃ t, stepTrigger s = .next t ∧ Triggered s t := by
  cases hroom : tryReserve s with
  | false => exact ⟨_, stepTrigger_overrun hdue hready hroom, triggered_afterDrop s⟩
  | true =>
    obtain ⟨m, -, h⟩ := stepTrigger_publishes hinv ((publishes_iff s).2 ⟨hdue, hready, hroom⟩)
    exact ⟨_, h, triggered_afterPublish s m⟩

theorem triggered_of_stepTrigger {s t : State} (h : stepTrigger s = .next t) :
    (triggerDue s = true ∧ Triggered s t) ∨ t = s := by
  obtain ⟨hdue, -, u, hu, rfl⟩ | ⟨-, rfl⟩ := stepTrigger_cases h
  · obtain ⟨-, m, -, rfl⟩ | ⟨-, rfl⟩ := trigger_cases hu
    · exact .inl ⟨hdue, triggered_afterPublish s m⟩
    · exact .inl ⟨hdue, triggered_afterDrop s⟩
  · exact .inr rfl

theorem sourcesReady_iff (s : State) : sourcesReady s = true ↔
    s.params.fblen ≤ s.env.psg.length ∧ s.params.fblen ≤ s.env.pcm.length ∧ s.params.fblen ≤ s.env.fm.length := by
  simp [sourcesReady, and_assoc]

/-! ### The statements -/

/-- Settles O20: the reservation holds, so the slot lies in the RAM and the publish is `afterPublish`. -/
theorem reservedTriggerPublishes : Obligations.ReservedTriggerPublishes := by
  unfold Obligations.ReservedTriggerPublishes
  intro s hinv hpub
  obtain ⟨hdue, hready, -⟩ := (publishes_iff s).1 hpub
  obtain ⟨hphase, hthresh⟩ := (triggerDue_iff s).1 hdue
  obtain ⟨m, hm, hstep⟩ := stepTrigger_publishes hinv hpub
  have hlength := mixedBuffer_length hready
  have hwrite := writeIndex_lt_capacity hinv (hinv.capOpen (.inl (hinv.busyOpen (.inl hphase))))
  have haud := (triggered_afterPublish s m).audAcc
  refine ⟨_, hstep, hlength, fun i hi => read_writeFrames_inside hm _ i hi,
    fun a ha => read_writeFrames_outside hm _ (by rw [hlength]; exact ha), count_afterPublish hinv hpub m, ?gray,
    by omega, ?producer, rfl, rfl, rfl, rfl, rfl⟩
  case gray =>
    rw [hinv.wrGrayed]
    exact gray_add_one_differs_in_one_bit s.p.wrCnt
  case producer =>
    rw [← nextIndex_eq_ofNat hwrite]
    rfl

/-- Settles O21: without room the trigger is `afterDrop`, which leaves the RAM. -/
theorem overrunDropsSilently : Obligations.OverrunDropsSilently := by
  unfold Obligations.OverrunDropsSilently
  intro s hdue hready hfull
  obtain ⟨-, hthresh⟩ := (triggerDue_iff s).1 hdue
  have haud := (triggered_afterDrop s).audAcc
  exact ⟨_, stepTrigger_overrun hdue hready hfull, fun _ => rfl, by omega, rfl, rfl, rfl, rfl, rfl, rfl⟩

/-- Settles O22: a source without FBLEN frames is not ready, and the step holds. -/
theorem starvedTriggerHolds : Obligations.StarvedTriggerHolds := by
  unfold Obligations.StarvedTriggerHolds
  intro s hstarved
  refine stepTrigger_held (.inr (eq_false_of_ne_true fun hready => ?_))
  obtain ⟨hpsg, hpcm, hfm⟩ := (sourcesReady_iff s).1 hready
  omega

end Sys2Proof.Machine
end

section
/-! PROOFS. The converter's books (R100): the moves that write them and every move's effect on them, whole schedules, what
the books say at a command boundary, and the statements that rest on it: O14, O15 and O16. -/

namespace Sys2Proof.Machine

open Sys2Proof

/-! ### The moves that write the books -/

/-- R95, R100: `c` further cycles carry into the units exactly as `sum + c` cycles from zero do. -/
theorem div_add_carry {d : Nat} (hd : 0 < d) (sum c : Nat) : (sum + c) / d = sum / d + (sum % d + c) / d := by
  conv_lhs => rw [← Nat.div_add_mod sum d, Nat.add_assoc, Nat.mul_add_div hd]

theorem mul1_pos {q : Params} (h : q.legal = true) : 0 < q.mul1 := by
  simp only [Params.legal, Bool.and_eq_true, decide_eq_true_eq] at h
  omega

theorem accounts_beginAdvance {s : State} {sum : Nat} (hinv : s.Inv) (hidle : s.p.phase = .idle) (hacc : s.accounts sum)
    (cycles : BitVec 28) :
    State.accounts { stage1 (cyclesOf cycles) s with p.advTrigs := 0, p.phase := .advancing } (sum + cyclesOf cycles) := by
  obtain ⟨hcpu, n, hunits, htrig⟩ := hacc
  obtain ⟨hdiv, -, -⟩ := legal_bounds_stage1 hinv.legal
  have hcycles : cyclesOf cycles < 2 ^ 28 := cycles.isLt
  have hbound := hinv.cpuBound
  have haud := stage1_audAcc_toNat (n := cyclesOf cycles) hinv.legal (hinv.audBound (by simp [hidle])) (by omega)
  refine ⟨?_, n, ?_, htrig⟩
  · exact (stage1_cpuAcc_toNat hinv.legal).trans (by rw [hcpu, Nat.mod_add_mod, stage1_params])
  · refine Eq.trans ?_ (congrArg _ haud.symm)
    rw [stage1_params, div_add_carry hdiv, Nat.add_mul, hunits, hcpu, Nat.add_assoc]

theorem accounts_openSuccess (s : State) (cap : Nat) : (openSuccess cap s).accounts 0 :=
  ⟨(Nat.zero_mod _).symm, 0, by simp, rfl⟩

theorem accounts_triggered {s t : State} {sum : Nat} (hacc : s.accounts sum) (hdue : triggerDue s = true)
    (h : Triggered s t) : t.accounts sum := by
  obtain ⟨hcpu, n, hunits, htrig⟩ := hacc
  obtain ⟨-, hthresh⟩ := (triggerDue_iff s).1 hdue
  refine ⟨by rw [h.cpuAcc, h.params, hcpu], n + 1, ?_, by rw [h.trigCount, htrig, BitVec.ofNat_add]; rfl⟩
  rw [h.params, h.audAcc, hunits, Nat.add_mul]
  omega

theorem accounts_reset (s : State) (cut : Cut) : (stepReset cut s).accounts 0 :=
  ⟨(Nat.zero_mod _).symm, 0, by simp [Producer.reset], rfl⟩

/-! ### Every move keeps the books -/

theorem openSucceeds_iff (noDev : Bool) (req : BitVec 24) (s : State) : openSucceeds noDev req s = true ↔
    (s.p.eng = .uninit ∨ s.p.eng = .closed) ∧ s.p.disabled = false ∧ noDev = false ∧
    clampCap (reqOf req) ≤ s.params.maxCapImpl ∧ s.env.devOk = true := by
  simp [openSucceeds, and_assoc]

theorem exec_open_succeeds {noDev : Bool} {req : BitVec 24} {s : State} (h : openSucceeds noDev req s = true) :
    exec (.openEngine noDev req) s = .next (openSuccess (clampCap req.toInt) s) := by
  obtain ⟨hshut, hdis, rfl, hcap, hdev⟩ := (openSucceeds_iff noDev req s).1 h
  have hfits : ¬ s.params.maxCapImpl < clampCap req.toInt := not_lt.2 hcap
  rw [exec_open_of_shut hshut hdis, if_neg (by decide), if_neg hfits, if_neg (by simp [hdev])]

theorem accounts_exec {i : Instr} {s t : State} {sum : Nat} (hinv : s.Inv)
    (hready : s.cmdReady = true) (hport : i.port = .command) (hacc : s.accounts sum) (h : exec i s = .next t) :
    t.accounts (cyclesAfterInstr i s sum) := by
  obtain ⟨hidle, -⟩ := (cmdReady_iff s).1 hready
  cases i with
  | nop => cases h; exact hacc
  | openEngine noDev req =>
    by_cases hopens : openSucceeds noDev req s = true
    · rw [exec_open_succeeds hopens] at h
      cases h
      rw [cyclesAfterInstr, if_pos hopens]
      exact accounts_openSuccess s _
    · rw [cyclesAfterInstr, if_neg hopens]
      obtain ⟨-, rfl⟩ | ⟨-, rfl⟩ | ⟨hshut, hdis, hopen⟩ := execOpen_cases h
      · exact hacc
      · exact hacc
      · obtain ⟨-, rfl⟩ | ⟨-, -, rfl⟩ | ⟨-, -, -, rfl⟩ | ⟨hdev, hcap, hok, -⟩ := hopen
        · exact hacc
        · exact hacc
        · exact hacc
        · exact absurd ((openSucceeds_iff noDev req s).2 ⟨hshut, hdis, hdev, hcap, hok⟩) hopens
  | closeEngine => obtain ⟨-, rfl⟩ | ⟨-, -, rfl⟩ | ⟨-, rfl⟩ := execClose_cases h <;> exact hacc
  | advance cycles =>
    obtain ⟨hfault, rfl⟩ | ⟨-, hopen, rfl⟩ | ⟨hopen, rfl⟩ := execAdvance_cases h
    · rw [cyclesAfterInstr, if_neg (by simp [hfault])]
      exact hacc
    · rw [cyclesAfterInstr, if_neg hopen]
      exact hacc
    · rw [cyclesAfterInstr, if_pos hopen]
      exact accounts_beginAdvance hinv hidle hacc cycles
  | csrRead idx => obtain ⟨v, -, rfl⟩ | ⟨-, rfl⟩ := execCsrRead_cases h <;> exact hacc
  | sinkReq len => cases hport

/-- The presented word has no say in what its instruction adds. -/
theorem cyclesAfterInstr_taken (i : Instr) (s : State) (sum : Nat) :
    cyclesAfterInstr i { s with env.cmd := none } sum = cyclesAfterInstr i s sum := by
  cases i <;> rfl

theorem acceptable_iff (s : State) (i : Instr) : s.acceptable = some i ↔
    s.cmdReady = true ∧ ∃ w, s.env.cmd = some w ∧ decodeCommand w = .instr i := by
  unfold State.acceptable
  cases hcmd : s.env.cmd with
  | none => simp
  | some w =>
    by_cases hready : s.cmdReady = true
    · cases hdec : decodeCommand w <;> simp [hready, hdec]
    · simp [hready]

theorem accounts_accept {s t : State} {sum : Nat} (hinv : s.Inv) (hacc : s.accounts sum) (h : stepAccept s = .next t) :
    t.accounts (cyclesAfter .accept s sum) := by
  rw [cyclesAfter]
  cases haccept : s.acceptable with
  | some i =>
    obtain ⟨hready, w, hcmd, hdec⟩ := (acceptable_iff s i).1 haccept
    have htaken : State.Inv { s with env.cmd := none } := { hinv with }
    rw [show stepAccept s = exec i { s with env.cmd := none } from accept_of_instr hcmd hready hdec] at h
    have hexec := accounts_exec htaken hready (decodeCommand_port hdec) hacc h
    rwa [cyclesAfterInstr_taken] at hexec
  | none =>
    obtain rfl | ⟨hready, w, hcmd, ⟨i, hdec, -⟩ | ⟨r, -, rfl⟩⟩ := stepAccept_cases h
    · exact hacc
    · rw [(acceptable_iff s i).2 ⟨hready, w, hcmd, hdec⟩] at haccept
      cases haccept
    · exact hacc

theorem accounts_sink {s t : State} {sum : Nat} (hacc : s.accounts sum) (h : stepSink s = .next t) :
    t.accounts sum := by
  obtain ⟨-, rfl⟩ | ⟨w, -, ⟨i, hdec, h⟩ | ⟨r, -, rfl⟩⟩ := stepSink_cases h
  · exact hacc
  · rw [decodeRequest_sink hdec] at h
    obtain ⟨-, rfl⟩ | ⟨-, h⟩ := execSinkReq_cases h
    · exact hacc
    · obtain ⟨-, rfl⟩ | ⟨-, -, ws, -, rfl⟩ := serveRequest_cases h <;> exact hacc
  · exact hacc

theorem accounts_perform {m : Move} {s t : State} {sum : Nat} (hinv : s.Inv) (hacc : s.accounts sum)
    (h : perform m s = .next t) : t.accounts (cyclesAfter m s sum) := by
  cases m with
  | accept => exact accounts_accept hinv hacc h
  | trigger =>
    obtain ⟨hdue, htriggered⟩ | rfl := triggered_of_stepTrigger h
    · exact accounts_triggered hacc hdue htriggered
    · exact hacc
  | sink => exact accounts_sink hacc h
  | reset cut => cases h; exact accounts_reset s cut
  | finishAdvance => cases h; obtain ⟨-, -, e⟩ | e := stepFinishAdvance_cases s <;> rw [e] <;> exact hacc
  | finishHandshake =>
    cases h
    obtain ⟨-, -, e⟩ | ⟨-, -, -, e⟩ | e := stepFinishHandshake_cases s <;> rw [e] <;> exact hacc
  | start => cases h; obtain ⟨-, -, -, e⟩ | e := stepStart_cases s <;> rw [e] <;> exact hacc
  | stop => cases h; obtain ⟨-, -, e⟩ | e := stepStop_cases s <;> rw [e] <;> exact hacc
  | syncRd n => cases h; unfold syncRd; split_ifs <;> exact hacc
  | syncWr n => cases h; unfold syncWr; split_ifs <;> exact hacc
  | hostDrive cmd => obtain rfl | rfl := driveCommand_cases h <;> exact hacc
  | deviceDrive req => obtain rfl | rfl := driveRequest_cases h <;> exact hacc
  | sourceDeliver k frames => cases h; cases k <;> exact hacc
  | hostTake | platform | syncRun | syncAck | syncDiag => cases h; exact hacc
  | crossingViolation | ramOrderViolation => cases h

/-! ### Whole schedules -/

theorem play_cons {m : Move} {ms : List Move} {s : State} {sum : Nat} {r : State × Nat} (h : play (m :: ms) s sum = some r) :
    ∃ u, perform m s = .next u ∧ play ms u (cyclesAfter m s sum) = some r := by
  rw [play] at h
  cases hm : perform m s with
  | next u => rw [hm] at h; exact ⟨u, rfl, h⟩
  | fault f => rw [hm] at h; cases h
  | refused f => rw [hm] at h; cases h

theorem play_cons_of_next {m : Move} {s u : State} (h : perform m s = .next u) (ms : List Move) (sum : Nat) :
    play (m :: ms) s sum = play ms u (cyclesAfter m s sum) := by
  rw [play, h]

/-- A schedule keeps the invariant, the books and the parameters. -/
theorem play_keeps {ms : List Move} {s t : State} {sum sum' : Nat} (hinv : s.Inv) (hacc : s.accounts sum)
    (h : play ms s sum = some (t, sum')) : t.Inv ∧ t.accounts sum' ∧ t.params = s.params := by
  induction ms generalizing s sum with
  | nil => cases h; exact ⟨hinv, hacc, rfl⟩
  | cons m ms ih =>
    obtain ⟨u, hu, hplay⟩ := play_cons h
    obtain ⟨hinv', hacc', hparams⟩ := ih (hinv.perform hu) (accounts_perform hinv hacc hu) hplay
    exact ⟨hinv', hacc', hparams.trans (perform_keeps_schedule hu).params⟩

/-! ### At a command boundary -/

/-- R100: outside the trigger loop `aud_acc` is a remainder, so the books fix it and the number of triggers. -/
theorem accounts_at_boundary {s : State} {sum : Nat} (hinv : s.Inv) (hphase : s.p.phase ≠ .advancing)
    (hacc : s.accounts sum) :
    let units := sum / s.params.div1 * s.params.mul1
    s.p.audAcc.toNat = units % s.params.thresh ∧ s.p.trigCount = BitVec.ofNat 32 (units / s.params.thresh) ∧
    units = units / s.params.thresh * s.params.thresh + s.p.audAcc.toNat := by
  intro units
  obtain ⟨-, n, hunits, htrig⟩ := hacc
  obtain ⟨hquot, hrem⟩ := (Nat.div_mod_unique (a := units) (d := n) (thresh_pos hinv.legal)).2
    ⟨by rw [Nat.add_comm, Nat.mul_comm]; exact hunits.symm, hinv.audBound hphase⟩
  exact ⟨hrem.symm, by rw [hquot, htrig], by rw [hquot]; exact hunits⟩

/-- R102: the `k`-th trigger falls at the first cycle count whose whole units reach `k` thresholds. -/
theorem le_div_iff_ceil_le {d m T : Nat} (hd : 0 < d) (hm : 0 < m) (hT : 0 < T) (S k : Nat) :
    k ≤ S / d * m / T ↔ (k * T + m - 1) / m * d ≤ S := by
  have hceil : (k * T + m - 1) / m ≤ S / d ↔ k * T ≤ S / d * m := by
    rw [← Nat.lt_succ_iff, Nat.div_lt_iff_lt_mul hm, Nat.succ_mul]
    omega
  rw [Nat.le_div_iff_mul_le hT, ← hceil, Nat.le_div_iff_mul_le hd]

/-! ### The statements -/

/-- Settles O14: an ADVANCE in OPEN adds its cycles, a trigger moves a threshold from `aud_acc` to the count, an OPEN and a
reset begin at zero, and no other move touches the books. -/
theorem everyStepAccountsForCycles : Obligations.EveryStepAccountsForCycles := by
  unfold Obligations.EveryStepAccountsForCycles
  exact fun m s t sum hinv hacc h => accounts_perform hinv hacc h

/-- Settles O15: the books begin at zero and every schedule keeps them. -/
theorem noDriftOverAnyRun : Obligations.NoDriftOverAnyRun := by
  unfold Obligations.NoDriftOverAnyRun
  intro q ms t sum hlegal hplay hphase
  have hfresh : (State.fresh q).accounts 0 := ⟨(Nat.zero_mod _).symm, 0, by simp [State.fresh, State.reset, Producer.reset], rfl⟩
  obtain ⟨hinv, hacc, hparams⟩ := play_keeps (resetHasTheInvariant q hlegal) hfresh hplay
  have hq : t.params = q := hparams
  obtain ⟨haud, htrig, -⟩ := accounts_at_boundary hinv hphase hacc
  obtain ⟨hcpu, -⟩ := hacc
  rw [hq] at haud htrig hcpu
  exact ⟨hcpu, haud, htrig⟩

/-- Settles O16: the books at the boundary, and the ceiling of R102 as an adjoint of the two divisions. -/
theorem triggerIndexIsItsCycleCount : Obligations.TriggerIndexIsItsCycleCount := by
  unfold Obligations.TriggerIndexIsItsCycleCount
  intro s t ms S S' hinv hacc hplay hphase
  obtain ⟨hinv', hacc', -⟩ := play_keeps hinv hacc hplay
  obtain ⟨-, htrig, hunits⟩ := accounts_at_boundary hinv' hphase hacc'
  obtain ⟨hdiv, -, -⟩ := legal_bounds_stage1 hinv'.legal
  exact ⟨_, htrig, hunits, rfl, le_div_iff_ceil_le hdiv (mul1_pos hinv'.legal) (thresh_pos hinv'.legal) S'⟩

end Sys2Proof.Machine
end

section
/-! PROOFS. ADVANCE in an open engine (R94), its trigger loop with the sources' frames at hand (R96, R97), its completion
(R99), and the statements about them: O10, O12 and O13. -/

namespace Sys2Proof.Machine

open Sys2Proof

/-! ### Begin and completion -/

theorem exec_advance_of_opened {s : State} (hopen : s.p.eng = .opened) (cycles : BitVec 28) :
    exec (.advance cycles) s = .next { stage1 cycles.toNat s with p.advTrigs := 0, p.phase := .advancing } := by
  simp [exec, execAdvance, hopen, cyclesOf]

theorem finishAdvance_of_lt {s : State} (hphase : s.p.phase = .advancing) (haud : s.p.audAcc.toNat < s.params.thresh) :
    stepFinishAdvance s =
      { s with p.phase := .idle, p.rsp := some { data := s.p.advTrigs, code := .ok } } :=
  if_pos ⟨hphase, haud⟩

theorem finishAdvance_of_le {s : State} (haud : s.params.thresh ≤ s.p.audAcc.toNat) : stepFinishAdvance s = s :=
  if_neg fun h => absurd h.2 (by omega)

/-! ### The trigger loop -/

/-- Every source has the frames of `n` triggers to give. -/
def FramesAtHand (n : Nat) (s : State) : Prop :=
  n * s.params.fblen ≤ s.env.psg.length ∧ n * s.params.fblen ≤ s.env.pcm.length ∧
  n * s.params.fblen ≤ s.env.fm.length

theorem sourcesReady_of_framesAtHand {n : Nat} {s : State} (h : FramesAtHand (n + 1) s) : sourcesReady s = true := by
  obtain ⟨hpsg, hpcm, hfm⟩ := h
  rw [Nat.succ_mul] at hpsg hpcm hfm
  exact (sourcesReady_iff s).2 ⟨by omega, by omega, by omega⟩

theorem Triggered.framesAtHand {n : Nat} {s t : State} (htriggered : Triggered s t) (h : FramesAtHand (n + 1) s) :
    FramesAtHand n t := by
  obtain ⟨hpsg, hpcm, hfm⟩ := h
  rw [Nat.succ_mul] at hpsg hpcm hfm
  simp only [FramesAtHand, htriggered.env, htriggered.params, List.length_drop]
  omega

/-- What `n` triggers of the loop leave. -/
structure Looped (n : Nat) (s t : State) : Prop where
  params    : t.params = s.params
  phase     : t.p.phase = s.p.phase
  audAcc    : t.p.audAcc.toNat + n * s.params.thresh = s.p.audAcc.toNat
  cpuAcc    : t.p.cpuAcc = s.p.cpuAcc
  trigCount : t.p.trigCount = s.p.trigCount + BitVec.ofNat 32 n
  advTrigs  : t.p.advTrigs = s.p.advTrigs + BitVec.ofNat 32 n

theorem Looped.zero (s : State) : Looped 0 s s :=
  ⟨rfl, rfl, by simp, rfl, (BitVec.add_zero _).symm, (BitVec.add_zero _).symm⟩

theorem Looped.succ {n : Nat} {s t u : State} (hdue : triggerDue s = true) (h : Triggered s t) (hloop : Looped n t u) :
    Looped (n + 1) s u := by
  obtain ⟨-, hthresh⟩ := (triggerDue_iff s).1 hdue
  have haud := hloop.audAcc
  rw [h.audAcc, h.params] at haud
  have hsucc (x : Word) : x + 1 + BitVec.ofNat 32 n = x + BitVec.ofNat 32 (n + 1) := by
    rw [BitVec.ofNat_add, BitVec.add_assoc, BitVec.add_comm 1]
    rfl
  refine ⟨hloop.params.trans h.params, hloop.phase.trans h.phase, by rw [Nat.succ_mul]; omega,
    hloop.cpuAcc.trans h.cpuAcc, ?_, ?_⟩
  · rw [hloop.trigCount, h.trigCount, hsucc]
  · rw [hloop.advTrigs, h.advTrigs, hsucc]

/-- The loop runs through while `aud_acc` holds a threshold and the sources have their frames. -/
theorem play_triggers (n : Nat) (ms : List Move) (sum : Nat) {s : State} (hinv : s.Inv) (hphase : s.p.phase = .advancing)
    (hunits : n * s.params.thresh ≤ s.p.audAcc.toNat) (hframes : FramesAtHand n s) :
    ∃ u, play (List.replicate n .trigger ++ ms) s sum = play ms u sum ∧ Looped n s u := by
  induction n generalizing s with
  | zero => exact ⟨s, rfl, Looped.zero s⟩
  | succ n ih =>
    rw [Nat.succ_mul] at hunits
    have hdue := (triggerDue_iff s).2 ⟨hphase, by omega⟩
    obtain ⟨t, ht, htriggered⟩ := stepTrigger_triggers hinv hdue (sourcesReady_of_framesAtHand hframes)
    obtain ⟨u, hplay, hloop⟩ := ih (hinv.stepTrigger ht) (htriggered.phase.trans hphase)
      (by rw [htriggered.audAcc, htriggered.params]; omega) (htriggered.framesAtHand hframes)
    refine ⟨u, ?_, hloop.succ hdue htriggered⟩
    rw [List.replicate_succ, List.cons_append, play_cons_of_next (m := .trigger) ht]
    exact hplay

/-! ### The statements -/

/-- Settles O10: OPEN passes both checks of ADVANCE. -/
theorem advanceInOpenBeginsTheLoop : Obligations.AdvanceInOpenBeginsTheLoop := by
  unfold Obligations.AdvanceInOpenBeginsTheLoop
  exact fun cycles s hopen => exec_advance_of_opened hopen cycles

/-- Settles O12: the completion is enabled below the threshold only. -/
theorem advanceAnswersItsTriggerCount : Obligations.AdvanceAnswersItsTriggerCount := by
  unfold Obligations.AdvanceAnswersItsTriggerCount
  exact fun s hphase => ⟨fun haud => congrArg _ (finishAdvance_of_lt hphase haud),
    fun haud => congrArg _ (finishAdvance_of_le haud)⟩

/-- Settles O13: stage 1 leaves `n` thresholds and a remainder, the loop takes the thresholds, and the completion answers
their number. -/
theorem wholeAdvanceRunsItsTriggers : Obligations.WholeAdvanceRunsItsTriggers := by
  unfold Obligations.WholeAdvanceRunsItsTriggers
  intro cycles s hinv hopen hready units n hpsg hpcm hfm
  obtain ⟨hidle, hrsp⟩ := (cmdReady_iff s).1 hready
  have hcycles : cycles.toNat < 2 ^ 28 := cycles.isLt
  have hcpuBound := hinv.cpuBound
  have haud := stage1_audAcc_toNat (n := cycles.toNat) hinv.legal (hinv.audBound (by simp [hidle])) (by omega)
  have hcpu := stage1_cpuAcc_toNat (n := cycles.toNat) hinv.legal
  have hsplit : units = n * s.params.thresh + units % s.params.thresh := (Nat.div_add_mod' _ _).symm
  have hrem := Nat.mod_lt units (thresh_pos hinv.legal)
  obtain ⟨u, hplay, hloop⟩ := play_triggers n [.finishAdvance] 0 (hinv.beginAdvance hrsp hopen hidle cycles.toNat) rfl
    (by change n * s.params.thresh ≤ (stage1 cycles.toNat s).p.audAcc.toNat; omega) ⟨hpsg, hpcm, hfm⟩
  have haudLeft : u.p.audAcc.toNat = units % s.params.thresh := by
    have hleft := hloop.audAcc
    change _ + n * s.params.thresh = (stage1 cycles.toNat s).p.audAcc.toNat at hleft
    omega
  have hparams : u.params = s.params := hloop.params
  have hfinish := finishAdvance_of_lt hloop.phase (by rw [haudLeft, hparams]; exact hrem)
  refine ⟨_, stepFinishAdvance u, exec_advance_of_opened hopen cycles, hplay, ?_⟩
  rw [hfinish]
  refine ⟨?rsp, rfl, haudLeft, ?cpu, hloop.trigCount⟩
  case rsp =>
    have htrigs : u.p.advTrigs = BitVec.ofNat 32 n := hloop.advTrigs.trans (BitVec.zero_add _)
    rw [htrigs]
  case cpu => exact (congrArg BitVec.toNat hloop.cpuAcc).trans hcpu

end Sys2Proof.Machine
end

section
/-! PROOFS. The consumer's start and stop steps (R135, R136), CLOSE in each lifecycle state (R145), the two completions
(R143, R146), both handshakes from the command to its response, and the statements about them: O34, O35, O39, O40, O41 and
O42. -/

namespace Sys2Proof.Machine

open Sys2Proof

/-! ### Start, stop and completion, an equation per case -/

theorem stepStart_of {s : State} (h : s.c.ackC = false ∧ s.c.runSeen = true ∧ s.c.wrSeen = 0) :
    stepStart s = { s with c.ackC := true } :=
  if_pos h

theorem stepStart_of_not {s : State} (h : ¬ (s.c.ackC = false ∧ s.c.runSeen = true ∧ s.c.wrSeen = 0)) :
    stepStart s = s :=
  if_neg h

theorem stepStop_of {s : State} (h : s.c.ackC = true ∧ s.c.runSeen = false) :
    stepStop s = { s.resetReadPointers with c.ackC := false } :=
  if_pos h

theorem stepStop_of_not {s : State} (h : ¬ (s.c.ackC = true ∧ s.c.runSeen = false)) : stepStop s = s :=
  if_neg h

theorem finishHandshake_opening {s : State} (hphase : s.p.phase = .opening) (hseen : s.p.ackSeen = true) :
    stepFinishHandshake s = openComplete s := by
  simp [stepFinishHandshake, hphase, hseen]

theorem finishHandshake_opening_held {s : State} (hphase : s.p.phase = .opening) (hseen : s.p.ackSeen = false) :
    stepFinishHandshake s = s := by
  simp [stepFinishHandshake, hphase, hseen]

theorem finishHandshake_closing {s : State} (hphase : s.p.phase = .closing)
    (h : s.p.ackSeen = false ∧ s.p.rdSeen = 0) : stepFinishHandshake s = closeComplete s := by
  rw [stepFinishHandshake, hphase]
  exact if_pos h

theorem finishHandshake_closing_held {s : State} (hphase : s.p.phase = .closing)
    (h : ¬ (s.p.ackSeen = false ∧ s.p.rdSeen = 0)) : stepFinishHandshake s = s := by
  rw [stepFinishHandshake, hphase]
  exact if_neg h

/-! ### CLOSE -/

theorem exec_close_of_shut {s : State} (hshut : s.p.eng = .uninit ∨ s.p.eng = .closed) :
    exec .closeEngine s = .next { s with p.rsp := some { data := 0, code := .ok } } := by
  obtain ⟨hfault, hopen⟩ := not_fault_not_opened_of_shut hshut
  exact (if_neg hfault).trans (if_pos hopen)

theorem exec_close_of_opened {s : State} (hopen : s.p.eng = .opened) :
    exec .closeEngine s = .next (closeSequence s) := by
  simp [exec, execClose, hopen]

/-! ### The two handshakes -/

/-- While the engine is shut, one step of the view of the write pointer brings it to 0: it moves there, or is there. -/
theorem State.Inv.syncWr_one {s : State} (hinv : s.Inv) (hopen : s.p.eng ≠ .opened) :
    ∃ x, Machine.syncWr 1 s = { s with c.wrSeen := 0, x := x } := by
  obtain ⟨hwr, -⟩ := hinv.shutPointers hopen
  cases hjump : s.x.wrJump with
  | true => exact ⟨_, syncWr_jump hjump 0⟩
  | false => exact ⟨s.x, by rw [syncWr_forward hinv.wrGrayed hjump, hinv.wrSeen_eq hopen hjump, forward_self, hwr]⟩

/-- Inside a CLOSE window one step of the view of the read pointer brings it to 0. -/
theorem State.Inv.syncRd_one {s : State} (hinv : s.Inv) (hwindow : s.closeWindow = true) :
    ∃ x, Machine.syncRd 1 s = { s with p.rdSeen := 0, x := x } := by
  obtain ⟨hrd, -⟩ := hinv.windowPointers hwindow
  obtain ⟨-, hack⟩ := (closeWindow_eq_true_iff s).1 hwindow
  have hlive : ¬ s.live := fun ⟨_, h⟩ => by simp [hack] at h
  cases hjump : s.x.rdJump with
  | true => exact ⟨_, syncRd_jump hjump 0⟩
  | false => exact ⟨s.x, by rw [syncRd_forward hinv.rdGrayed hjump, hinv.rdSeen_eq hlive hjump, forward_self, hrd]⟩

/-- R143, R135: from OPEN_SUCCESS each agent in turn sees what the other did, and the OPEN completes. -/
theorem open_completes {t : State} (hinv : t.Inv) (hphase : t.p.phase = .opening) (hack : t.c.ackC = false) :
    ∃ u, play [.syncWr 1, .syncRun, .start, .syncAck, .finishHandshake] t 0 = some (u, 0) ∧
      u.p.eng = .opened ∧ u.p.phase = .idle ∧ u.c.ackC = true ∧
      u.p.rsp = some { data := t.p.capacity.setWidth 32, code := .ok } := by
  obtain ⟨-, hopen⟩ := not_fault_not_opened_of_shut (hinv.openingShut hphase)
  have hrun := hinv.runWhen.2 (.inl hphase)
  obtain ⟨x, hview⟩ := hinv.syncWr_one hopen
  have hstart := stepStart_of (s := syncRun { t with c.wrSeen := 0, x := x }) ⟨hack, hrun, rfl⟩
  have hfinish := finishHandshake_opening
    (s := syncAck { syncRun { t with c.wrSeen := 0, x := x } with c.ackC := true }) hphase rfl
  refine ⟨stepFinishHandshake (syncAck (stepStart (syncRun (syncWr 1 t)))), rfl, ?_⟩
  rw [hview, hstart, hfinish]
  exact ⟨rfl, rfl, rfl, rfl⟩

/-- R146, R136: from CLOSE_SEQUENCE likewise. -/
theorem close_completes {t : State} (hinv : t.Inv) (hphase : t.p.phase = .closing) (hack : t.c.ackC = true) :
    ∃ u, play [.syncRun, .stop, .syncAck, .syncRd 1, .finishHandshake] t 0 = some (u, 0) ∧
      u.p.eng = .closed ∧ u.p.phase = .idle ∧ u.c.ackC = false ∧ u.count = 0 ∧
      u.p.rsp = some { data := 0, code := .ok } := by
  have hrun : t.p.runP = false := eq_false_of_ne_true (mt hinv.runWhen.1 (by simp [hphase]))
  have hstop := stepStop_of (s := syncRun t) ⟨hack, hrun⟩
  have hwindow := closeWindow_stepStop hinv.syncRun hack hrun
  obtain ⟨x, hview⟩ := hinv.syncRun.stepStop.syncAck.syncRd_one hwindow
  have hfinish := finishHandshake_closing
    (s := { syncAck { (syncRun t).resetReadPointers with c.ackC := false } with p.rdSeen := 0, x := x }) hphase ⟨rfl, rfl⟩
  refine ⟨stepFinishHandshake (syncRd 1 (syncAck (stepStop (syncRun t)))), rfl, ?_⟩
  rw [hview, hstop, hfinish]
  exact ⟨rfl, rfl, rfl, count_closeComplete rfl, rfl⟩

/-! ### The statements -/

/-- Settles O34: the start step's condition, and that a startable consumer belongs to an OPEN whose pointers are 0. -/
theorem consumerStartNeedsAllThree : Obligations.ConsumerStartNeedsAllThree := by
  unfold Obligations.ConsumerStartNeedsAllThree
  intro s
  refine ⟨fun h => congrArg _ (stepStart_of h), fun h => congrArg _ (stepStart_of_not h), fun hinv hack hrun => ?zero⟩
  case zero =>
    obtain ⟨-, hopen⟩ := hinv.opening_of_startable hack hrun
    obtain ⟨hwr, hrd, -, hread, -⟩ := hinv.shutPointers hopen
    exact ⟨hwr, hrd, hread⟩

/-- Settles O35: a stoppable consumer belongs to a CLOSE, whose window its stop begins. -/
theorem consumerStopDiscards : Obligations.ConsumerStopDiscards := by
  unfold Obligations.ConsumerStopDiscards
  intro s hinv
  refine ⟨fun h => congrArg _ (stepStop_of_not h), fun hack hrun => ?stops, fun hphase hheld => ?held⟩
  case stops =>
    obtain ⟨hphase, -⟩ := hinv.closing_of_stoppable hack hrun
    have hwindow := closeWindow_stepStop hinv hack hrun
    have hempty := count_of_window hwindow
    exact ⟨hphase, _, rfl, stepStop_of ⟨hack, hrun⟩, hwindow, hempty, pendingBuffers_nil hempty⟩
  case held => exact congrArg _ (finishHandshake_closing_held hphase hheld)

/-- Settles O39: `openSuccess` and `openComplete` are the two updates. -/
theorem openSuccessRequestsTheConsumer : Obligations.OpenSuccessRequestsTheConsumer := by
  unfold Obligations.OpenSuccessRequestsTheConsumer
  refine ⟨fun req s hshut hdis hcap hdev => ?success, fun s hphase => ⟨?busy, fun hseen => ?complete, fun hseen => ?held⟩⟩
  case success => exact exec_open_succeeds ((openSucceeds_iff false req s).2 ⟨hshut, hdis, rfl, hcap, hdev⟩)
  case busy => simp [State.cmdReady, hphase]
  case complete =>
    rw [BitVec.ofNat_toNat]
    exact congrArg _ (finishHandshake_opening hphase hseen)
  case held => exact congrArg _ (finishHandshake_opening_held hphase hseen)

/-- Settles O40: the two checks of CLOSE. -/
theorem closeByLifecycleState : Obligations.CloseByLifecycleState := by
  unfold Obligations.CloseByLifecycleState
  exact fun s => ⟨exec_close_of_shut, exec_close_of_opened, exec_close_of_fault⟩

/-- Settles O41: the completion is enabled inside the CLOSE window only, where the read side is 0. -/
theorem closeCompletesClean : Obligations.CloseCompletesClean := by
  unfold Obligations.CloseCompletesClean
  intro s hinv hphase
  refine ⟨fun hheld => congrArg _ (finishHandshake_closing_held hphase hheld), fun hseen hrdSeen => ?_⟩
  obtain ⟨-, hackOfSeen⟩ := hinv.closingOrder hphase
  have hack := hackOfSeen hseen
  obtain ⟨hrd, -⟩ := hinv.windowPointers ((closeWindow_eq_true_iff s).2 ⟨hphase, hack⟩)
  have hrun : s.p.runP = false := eq_false_of_ne_true (mt hinv.runWhen.1 (by simp [hphase]))
  have hgray : s.c.rdGray = 0 := by rw [hinv.rdGrayed, hrd, gray_zero]
  have hstep := finishHandshake_closing hphase ⟨hseen, hrdSeen⟩
  exact ⟨closeComplete s, congrArg Host.Outcome.next hstep, rfl, rfl, fun _ => rfl,
    count_closeComplete hrd, hrd, hgray, hrdSeen, hack, hseen, hrun, not_closeWindow_of_phase (by simp)⟩

/-- Settles O42: the accepted command leaves a state with the invariant in which its handshake completes. -/
theorem handshakesComplete : Obligations.HandshakesComplete := by
  unfold Obligations.HandshakesComplete
  intro s hinv hready
  obtain ⟨hidle, hrsp⟩ := (cmdReady_iff s).1 hready
  refine ⟨fun req hopens => ?opens, fun hopen => ?closes⟩
  case opens =>
    obtain ⟨hshut, hdis, -, hcap, -⟩ := (openSucceeds_iff false req s).1 hopens
    obtain ⟨-, hopen⟩ := not_fault_not_opened_of_shut hshut
    have hstopped := ackC_of_shut hinv hopen (by simp [hidle])
    obtain ⟨u, hplay, heng, hphase, hack, hanswer⟩ :=
      open_completes (hinv.openSuccess hrsp hshut hidle hdis hcap) rfl hstopped
    obtain ⟨-, hmax⟩ := clampCap_range req.toInt
    have hdata : (BitVec.ofNat 11 (clampCap req.toInt)).setWidth 32 = BitVec.ofNat 32 (clampCap req.toInt) :=
      BitVec.setWidth_ofNat_of_le_of_lt (by decide) (by omega)
    exact ⟨_, u, exec_open_succeeds hopens, hplay, heng, hphase, hack, hdata ▸ hanswer⟩
  case closes =>
    obtain ⟨-, hack, -⟩ := hinv.openRuns ⟨hopen, by simp [hidle]⟩
    obtain ⟨u, hplay, hclosed⟩ := close_completes (hinv.closeSequence hrsp hopen hidle) rfl hack
    exact ⟨_, u, exec_close_of_opened hopen, hplay, hclosed⟩

end Sys2Proof.Machine
end

section
/-! PROOFS. The move that settles each view (R11), the fairness of a run: how a view that stays behind becomes overdue and
how few moves can come before its own, and the statements about the synchronizers: O26 and O27. -/

namespace Sys2Proof.Machine

open Sys2Proof

/-! ### Settling a view -/

/-- As far forward as a distance can be, or directly to 0 where the read pointer was reset: `rd_seen` is at its source. -/
theorem State.Inv.syncRd_all {s : State} (hinv : s.Inv) :
    ∃ x, Machine.syncRd 2047 s = { s with p.rdSeen := s.c.rdCnt, x := x } := by
  cases hjump : s.x.rdJump with
  | true =>
    obtain ⟨-, hwindow⟩ := hinv.window_of_rdJump hjump
    obtain ⟨hrd, -⟩ := hinv.windowPointers hwindow
    exact ⟨_, by rw [syncRd_jump hjump 2046, hrd]⟩
  | false => exact ⟨s.x, by rw [syncRd_forward hinv.rdGrayed hjump, forward_all]⟩

theorem State.Inv.syncWr_all {s : State} (hinv : s.Inv) :
    ∃ x, Machine.syncWr 2047 s = { s with c.wrSeen := s.p.wrCnt, x := x } := by
  cases hjump : s.x.wrJump with
  | true =>
    obtain ⟨hwr, -⟩ := hinv.shutPointers (hinv.shut_of_wrJump hjump)
    exact ⟨_, by rw [syncWr_jump hjump 2046, hwr]⟩
  | false => exact ⟨s.x, by rw [syncWr_forward hinv.wrGrayed hjump, forward_all]⟩

/-- A view's move to its source settles it, and changes no source and no other view. -/
theorem catchUp_settles {v : View} {s t : State} (hinv : s.Inv) (h : perform (catchUp v) s = .next t) :
    viewSeen v t = viewSource v t ∧
    ∀ w, viewSource w t = viewSource w s ∧ (w ≠ v → viewSeen w t = viewSeen w s) := by
  cases v with
  | rdSeen =>
    obtain ⟨x, hview⟩ := hinv.syncRd_all
    cases (Host.Outcome.next.inj h).symm.trans hview
    exact ⟨rfl, fun w => by cases w <;> exact ⟨rfl, by simp [viewSeen]⟩⟩
  | wrSeen =>
    obtain ⟨x, hview⟩ := hinv.syncWr_all
    cases (Host.Outcome.next.inj h).symm.trans hview
    exact ⟨rfl, fun w => by cases w <;> exact ⟨rfl, by simp [viewSeen]⟩⟩
  | runSeen | ackSeen | diagSeen =>
    cases h
    exact ⟨rfl, fun w => by cases w <;> exact ⟨rfl, by simp [viewSeen]⟩⟩

/-! ### A run that leaves a view behind -/

theorem step_lags {s t : State} (h : step s = .next t) : t.lags = nextLags s := by
  obtain ⟨-, hperform⟩ := step_next h
  rw [(perform_keeps_schedule hperform).lags, scheduled_lags]

theorem behind_scheduled (v : View) (s : State) : behind v s.scheduled = behind v s := by
  cases v <;> rfl

/-- While some view is overdue, a step settles a view that was behind, and leaves no other behind that was not. -/
theorem step_settles_one {v : View} {s t : State} (hinv : s.Inv) (hdue : isOverdue v s = true) (h : step s = .next t) :
    ∃ u, behind u s = true ∧ ∀ w, behind w t = true → w ≠ u ∧ behind w s = true := by
  obtain ⟨u, hu⟩ := overdue_of_isOverdue hdue
  obtain ⟨hbehind, -⟩ := (isOverdue_iff u s).1 (overdue_some hu)
  obtain ⟨-, hperform⟩ := step_next h
  rw [nextMove_overdue hu] at hperform
  obtain ⟨hsettled, hothers⟩ := catchUp_settles hinv.scheduled hperform
  refine ⟨u, (behind_iff u s).2 hbehind, fun w hw => ?_⟩
  have hne : w ≠ u := by
    rintro rfl
    exact (behind_iff w t).1 hw hsettled
  obtain ⟨hsource, hseen⟩ := hothers w
  rw [behind_iff, hsource, hseen hne, ← behind_iff, behind_scheduled] at hw
  exact ⟨hne, hw⟩

/-- A view stays behind an unchanged source for the first `n` states of a run. -/
def StaysBehind (v : View) (r : Nat → State) (n : Nat) : Prop :=
  ∀ k, k ≤ n → viewSeen v (r k) ≠ viewSource v (r k) ∧ viewSource v (r k) = viewSource v (r 0)

theorem staysBehind_of_not_settles {v : View} {r : Nat → State} {n : Nat} (h : ¬ settlesWithin v r n) :
    StaysBehind v r n := by
  intro k hk
  by_contra hk'
  refine h ⟨k, hk, ?_⟩
  by_cases hseen : viewSeen v (r k) = viewSource v (r k)
  · exact .inl hseen
  · exact .inr fun hsource => hk' ⟨hseen, hsource⟩

theorem run_inv {r : Nat → State} {n : Nat} (hinv : (r 0).Inv) (hrun : isRun r n) : ∀ k, k ≤ n → (r k).Inv := by
  intro k
  induction k with
  | zero => exact fun _ => hinv
  | succ k ih => exact fun hk => (ih (by omega)).step (hrun k hk)

/-- Each step takes one off the steps that were drawn. -/
theorem lag_counts_down {v : View} {r : Nat → State} {n : Nat} {l : Lag} (hrun : isRun r n) (hbehind : StaysBehind v r n)
    (hl : nextLag v (r 0) = some l) (hsource : l.source = viewSource v (r 0)) :
    ∀ k, k < n → lagOf v (r (k + 1)).lags = some { l with left := l.left - k } := by
  intro k
  induction k with
  | zero => exact fun hk => by rw [step_lags (hrun 0 hk), lagOf_nextLags, hl, Nat.sub_zero]
  | succ k ih =>
    intro hk
    obtain ⟨hseen, hsame⟩ := hbehind (k + 1) (by omega)
    rw [step_lags (hrun (k + 1) hk), lagOf_nextLags,
      nextLag_same hseen (ih (by omega)) (hsource.trans hsame.symm), Nat.sub_sub]

/-- From the step at which it is overdue a view that stays behind is overdue for good. -/
theorem overdue_of_staysBehind {v : View} {r : Nat → State} {n : Nat} {l : Lag} (hrun : isRun r n)
    (hbehind : StaysBehind v r n) (hl : nextLag v (r 0) = some l) (hsource : l.source = viewSource v (r 0)) {k : Nat}
    (hk : k < n) (hleft : l.left ≤ k) : isOverdue v (r (k + 1)) = true := by
  obtain ⟨hseen, hsame⟩ := hbehind (k + 1) hk
  exact (isOverdue_iff v _).2 ⟨hseen, _, lag_counts_down hrun hbehind hl hsource k hk, hsource.trans hsame.symm,
    Nat.sub_eq_zero_of_le hleft⟩

/-- Every view that is behind is among `5 − j` views, `j` steps after some view has become overdue for good. -/
theorem behind_among {v : View} {r : Nat → State} {a n : Nat} (hinv : ∀ k, k ≤ n → (r k).Inv) (hrun : isRun r n)
    (hdue : ∀ k, a ≤ k → k < n → isOverdue v (r k) = true) :
    ∀ j, j ≤ 5 → a + j ≤ n → ∃ vs : List View, vs.length = 5 - j ∧ ∀ w, behind w (r (a + j)) = true → w ∈ vs := by
  intro j
  induction j with
  | zero => exact fun _ _ => ⟨views, rfl, fun w _ => by cases w <;> simp [views]⟩
  | succ j ih =>
    intro hj hn
    obtain ⟨vs, hlength, hall⟩ := ih (by omega) (by omega)
    obtain ⟨u, hu, hshrinks⟩ := step_settles_one (hinv (a + j) (by omega)) (hdue (a + j) (by omega) (by omega))
      (hrun (a + j) (by omega))
    refine ⟨vs.erase u, ?_, fun w hw => ?_⟩
    · rw [List.length_erase_of_mem (hall u hu)]
      omega
    · obtain ⟨hne, hbehind⟩ := hshrinks w hw
      exact (List.mem_erase_of_ne hne).2 (hall w hbehind)

/-- R11, Fairness: after the steps drawn for it a view is overdue, and then at most five moves settle every view. -/
theorem settles_of_run {v : View} {r : Nat → State} (hinv : (r 0).Inv) (hrun : isRun r (settleBound v (r 0))) :
    settlesWithin v r (settleBound v (r 0)) := by
  by_contra hnot
  have hbehind := staysBehind_of_not_settles hnot
  obtain ⟨hseen, -⟩ := hbehind 0 (Nat.zero_le _)
  obtain ⟨l, hl, hsource⟩ := nextLag_behind hseen
  have hbound : settleBound v (r 0) = l.left + 6 := by rw [settleBound, hl]
  rw [hbound] at hrun hbehind
  have hdue : ∀ k, l.left + 1 ≤ k → k < l.left + 6 → isOverdue v (r k) = true := by
    intro k hk hn
    obtain ⟨k, rfl⟩ : ∃ k', k = k' + 1 := ⟨k - 1, by omega⟩
    exact overdue_of_staysBehind hrun hbehind hl hsource (by omega) (by omega)
  obtain ⟨vs, hlength, hall⟩ := behind_among (run_inv hinv hrun) hrun hdue 5 (le_refl _) (le_refl _)
  obtain ⟨hseen, -⟩ := hbehind (l.left + 1 + 5) (le_refl _)
  have hmem := hall v ((behind_iff v _).2 hseen)
  rw [List.eq_nil_of_length_eq_zero hlength] at hmem
  exact List.not_mem_nil hmem

/-! ### The statements -/

/-- Settles O26: `syncWr` and `syncRd` read the pointers through their gray codes, or jump; the levels are copied. -/
theorem synchronizersMoveOnlyTheirView : Obligations.SynchronizersMoveOnlyTheirView := by
  unfold Obligations.SynchronizersMoveOnlyTheirView
  intro s n hwr hrd
  exact ⟨fun hjump => ⟨_, rfl, congrArg _ (syncWr_forward hwr hjump n)⟩,
    fun hjump => ⟨rfl, congrArg _ (syncWr_jump hjump n)⟩,
    fun hjump => ⟨_, rfl, congrArg _ (syncRd_forward hrd hjump n)⟩,
    fun hjump => ⟨rfl, congrArg _ (syncRd_jump hjump n)⟩, rfl, rfl, rfl⟩

/-- Settles O27: each view's move settles it, and a run cannot leave a view behind for longer than its bound. -/
theorem viewsCatchUp : Obligations.ViewsCatchUp := by
  unfold Obligations.ViewsCatchUp
  refine ⟨fun s hinv => ?settle, fun r v hinv hrun => settles_of_run hinv hrun⟩
  case settle =>
    obtain ⟨x, hrd⟩ := hinv.syncRd_all
    obtain ⟨x', hwr⟩ := (hinv.syncRd 2047).syncWr_all
    refine ⟨syncDiag (syncAck (syncRun (syncWr 2047 (syncRd 2047 s)))), rfl, ?_⟩
    rw [hwr, hrd]
    exact ⟨⟨rfl, rfl, rfl, rfl, rfl⟩, rfl⟩

end Sys2Proof.Machine
end

section
/-! PROOFS. The frame of each instruction, which domain each move writes (R126), the status flags and their writers (R55),
and the statements about what stays unchanged: O47, O48, O49, O50, O51 and O52. -/

namespace Sys2Proof.Machine

open Sys2Proof

/-! ### Instructions -/

theorem execSinkReq_frame {len : BitVec 28} {s t : State} (h : execSinkReq len s = .next t) :
    t = { s with c.readIndex := t.c.readIndex, c.rdCnt := t.c.rdCnt, c.rdGray := t.c.rdGray,
                 c.diagReq := t.c.diagReq, out.answer := t.out.answer } := by
  obtain ⟨-, rfl⟩ | ⟨-, h⟩ := execSinkReq_cases h
  · rfl
  · obtain ⟨-, rfl⟩ | ⟨-, -, ws, -, rfl⟩ := serveRequest_cases h <;> rfl

/-- No instruction touches the RAM or the inputs. -/
theorem exec_keeps_ram_env {i : Instr} {s t : State} (h : exec i s = .next t) :
    t.ram = s.ram ∧ t.ramEpoch = s.ramEpoch ∧ t.env = s.env := by
  cases i with
  | nop => cases h; exact ⟨rfl, rfl, rfl⟩
  | openEngine noDev req =>
    obtain ⟨-, rfl⟩ | ⟨-, rfl⟩ | ⟨-, -, ⟨-, rfl⟩ | ⟨-, -, rfl⟩ | ⟨-, -, -, rfl⟩ | ⟨-, -, -, rfl⟩⟩ :=
      execOpen_cases h <;> exact ⟨rfl, rfl, rfl⟩
  | closeEngine => obtain ⟨-, rfl⟩ | ⟨-, -, rfl⟩ | ⟨-, rfl⟩ := execClose_cases h <;> exact ⟨rfl, rfl, rfl⟩
  | advance cycles => obtain ⟨-, rfl⟩ | ⟨-, -, rfl⟩ | ⟨-, rfl⟩ := execAdvance_cases h <;> exact ⟨rfl, rfl, rfl⟩
  | csrRead idx => obtain ⟨v, -, rfl⟩ | ⟨-, rfl⟩ := execCsrRead_cases h <;> exact ⟨rfl, rfl, rfl⟩
  | sinkReq len => rw [execSinkReq_frame h]; exact ⟨rfl, rfl, rfl⟩

/-- A command leaves the consumer's domain. -/
theorem exec_keeps_c {i : Instr} {s t : State} (hport : i.port = .command) (h : exec i s = .next t) : t.c = s.c := by
  cases i with
  | nop => cases h; rfl
  | openEngine noDev req =>
    obtain ⟨-, rfl⟩ | ⟨-, rfl⟩ | ⟨-, -, ⟨-, rfl⟩ | ⟨-, -, rfl⟩ | ⟨-, -, -, rfl⟩ | ⟨-, -, -, rfl⟩⟩ :=
      execOpen_cases h <;> rfl
  | closeEngine => obtain ⟨-, rfl⟩ | ⟨-, -, rfl⟩ | ⟨-, rfl⟩ := execClose_cases h <;> rfl
  | advance cycles => obtain ⟨-, rfl⟩ | ⟨-, -, rfl⟩ | ⟨-, rfl⟩ := execAdvance_cases h <;> rfl
  | csrRead idx => obtain ⟨v, -, rfl⟩ | ⟨-, rfl⟩ := execCsrRead_cases h <;> rfl
  | sinkReq len => cases hport

/-! ### Domains -/

theorem perform_producer_keeps_c {m : Move} {s t : State} (hm : moveOfProducer m = true) (h : perform m s = .next t) :
    t.c = s.c := by
  cases m with
  | accept =>
    obtain rfl | ⟨-, w, -, ⟨i, hdec, h⟩ | ⟨r, -, rfl⟩⟩ := stepAccept_cases h
    · rfl
    · have hc := exec_keeps_c (decodeCommand_port hdec) h
      exact hc
    · rfl
  | trigger =>
    obtain ⟨-, -, u, hu, rfl⟩ | ⟨-, rfl⟩ := stepTrigger_cases h
    · obtain ⟨-, m, -, rfl⟩ | ⟨-, rfl⟩ := trigger_cases hu <;> rfl
    · rfl
  | finishAdvance =>
    cases h
    obtain ⟨-, -, e⟩ | e := stepFinishAdvance_cases s <;> rw [e]
    rfl
  | finishHandshake =>
    cases h
    obtain ⟨-, -, e⟩ | ⟨-, -, -, e⟩ | e := stepFinishHandshake_cases s <;> rw [e] <;> rfl
  | _ => cases hm

theorem perform_consumer_keeps_p {m : Move} {s t : State} (hm : moveOfConsumer m = true) (h : perform m s = .next t) :
    t.p = s.p ∧ t.ram = s.ram ∧ t.ramEpoch = s.ramEpoch := by
  cases m with
  | sink =>
    obtain ⟨-, rfl⟩ | ⟨w, -, ⟨i, hdec, h⟩ | ⟨r, -, rfl⟩⟩ := stepSink_cases h
    · exact ⟨rfl, rfl, rfl⟩
    · rw [decodeRequest_sink hdec] at h
      rw [execSinkReq_frame h]
      exact ⟨rfl, rfl, rfl⟩
    · exact ⟨rfl, rfl, rfl⟩
  | start => cases h; obtain ⟨-, -, -, e⟩ | e := stepStart_cases s <;> rw [e] <;> exact ⟨rfl, rfl, rfl⟩
  | stop => cases h; obtain ⟨-, -, e⟩ | e := stepStop_cases s <;> rw [e] <;> exact ⟨rfl, rfl, rfl⟩
  | _ => cases hm

/-- What the synchronizers and the environment leave: everything but the views, the response port and the inputs. -/
structure KeepsAgents (s t : State) : Prop where
  wrCnt      : t.p.wrCnt = s.p.wrCnt
  wrGray     : t.p.wrGray = s.p.wrGray
  writeIndex : t.p.writeIndex = s.p.writeIndex
  capacity   : t.p.capacity = s.p.capacity
  rdCnt      : t.c.rdCnt = s.c.rdCnt
  rdGray     : t.c.rdGray = s.c.rdGray
  readIndex  : t.c.readIndex = s.c.readIndex
  ackC       : t.c.ackC = s.c.ackC
  ram        : t.ram = s.ram
  epoch      : t.ramEpoch = s.ramEpoch
  ill        : t.p.ill = s.p.ill
  disabled   : t.p.disabled = s.p.disabled
  fAlloc     : t.p.fAlloc = s.p.fAlloc
  fDev       : t.p.fDev = s.p.fDev
  diagReq    : t.c.diagReq = s.c.diagReq

theorem perform_keepsAgents {m : Move} {s t : State} (hreset : moveIsReset m = false) (hp : moveOfProducer m = false)
    (hc : moveOfConsumer m = false) (h : perform m s = .next t) : KeepsAgents s t := by
  have hrfl : KeepsAgents s s := ⟨rfl, rfl, rfl, rfl, rfl, rfl, rfl, rfl, rfl, rfl, rfl, rfl, rfl, rfl, rfl⟩
  cases m with
  | hostDrive cmd => obtain rfl | rfl := driveCommand_cases h <;> exact { hrfl with }
  | deviceDrive req => obtain rfl | rfl := driveRequest_cases h <;> exact { hrfl with }
  | sourceDeliver k frames => cases h; cases k <;> exact { hrfl with }
  | syncRd n => cases h; unfold syncRd; split_ifs <;> exact { hrfl with }
  | syncWr n => cases h; unfold syncWr; split_ifs <;> exact { hrfl with }
  | hostTake | platform | syncRun | syncAck | syncDiag => cases h; exact { hrfl with }
  | accept | trigger | finishAdvance | finishHandshake => cases hp
  | sink | start | stop => cases hc
  | reset cut => cases hreset
  | crossingViolation | ramOrderViolation => cases h

/-! ### Status flags -/

/-- The sticky bits of the producer's STATUS (R16, R17, R18). -/
structure Flags where
  ill      : Bool
  disabled : Bool
  fAlloc   : Bool
  fDev     : Bool

def State.flags (s : State) : Flags :=
  { ill := s.p.ill, disabled := s.p.disabled, fAlloc := s.p.fAlloc, fDev := s.p.fDev }

/-- What an accepted OPEN can do to the flags. -/
theorem exec_open_flags {noDev : Bool} {req : BitVec 24} {s t : State} (h : exec (.openEngine noDev req) s = .next t) :
    t.flags = s.flags ∨ (noDev = true ∧ t.flags = { s.flags with disabled := true }) ∨
    (noDev = false ∧ (t.flags = { s.flags with fAlloc := true } ∨ t.flags = { s.flags with fDev := true })) := by
  obtain ⟨-, rfl⟩ | ⟨-, rfl⟩ | ⟨-, -, hopen⟩ := execOpen_cases h
  · exact .inl rfl
  · exact .inl rfl
  · obtain ⟨hdev, rfl⟩ | ⟨hdev, -, rfl⟩ | ⟨hdev, -, -, rfl⟩ | ⟨-, -, -, rfl⟩ := hopen
    · exact .inr (.inl ⟨hdev, rfl⟩)
    · exact .inr (.inr ⟨hdev, .inl rfl⟩)
    · exact .inr (.inr ⟨hdev, .inr rfl⟩)
    · exact .inl rfl

/-- R55: the accept step writes a flag only for a rejected word or for an OPEN. -/
theorem accept_flags {s t : State} (h : stepAccept s = .next t) :
    t.flags = s.flags ∨
    (∃ w r, s.env.cmd = some w ∧ decodeCommand w = .reject r ∧ t.flags = { s.flags with ill := true }) ∨
    (∃ req, s.acceptable = some (.openEngine true req) ∧ t.flags = { s.flags with disabled := true }) ∨
    (∃ req, s.acceptable = some (.openEngine false req) ∧
      (t.flags = { s.flags with fAlloc := true } ∨ t.flags = { s.flags with fDev := true })) := by
  obtain rfl | ⟨hready, w, hcmd, ⟨i, hdec, h⟩ | ⟨r, hdec, rfl⟩⟩ := stepAccept_cases h
  · exact .inl rfl
  · have haccept := (acceptable_iff s i).2 ⟨hready, w, hcmd, hdec⟩
    have hport := decodeCommand_port hdec
    cases i with
    | nop => cases h; exact .inl rfl
    | openEngine noDev req =>
      obtain hsame | ⟨rfl, hdis⟩ | ⟨rfl, hfault⟩ := exec_open_flags h
      · exact .inl hsame
      · exact .inr (.inr (.inl ⟨req, haccept, hdis⟩))
      · exact .inr (.inr (.inr ⟨req, haccept, hfault⟩))
    | closeEngine => obtain ⟨-, rfl⟩ | ⟨-, -, rfl⟩ | ⟨-, rfl⟩ := execClose_cases h <;> exact .inl rfl
    | advance cycles => obtain ⟨-, rfl⟩ | ⟨-, -, rfl⟩ | ⟨-, rfl⟩ := execAdvance_cases h <;> exact .inl rfl
    | csrRead idx =>
      obtain ⟨hwf, -⟩ := encode_of_decodeCommand hdec
      obtain ⟨v, hv⟩ := csrValue_defined (of_decide_eq_true hwf) { s with env.cmd := none }
      rw [exec_csrRead_of_some hv] at h
      cases h
      exact .inl rfl
    | sinkReq len => cases hport
  · exact .inr (.inl ⟨w, r, hcmd, hdec, rfl⟩)

/-- R55: besides reset only the accept step writes the producer's flags. -/
theorem perform_flags {m : Move} {s t : State} (hreset : moveIsReset m = false) (haccept : m ≠ .accept)
    (h : perform m s = .next t) : t.flags = s.flags := by
  cases hp : moveOfProducer m with
  | true =>
    cases m with
    | accept => exact absurd rfl haccept
    | trigger =>
      obtain ⟨-, -, u, hu, rfl⟩ | ⟨-, rfl⟩ := stepTrigger_cases h
      · obtain ⟨-, m, -, rfl⟩ | ⟨-, rfl⟩ := trigger_cases hu <;> rfl
      · rfl
    | finishAdvance =>
      cases h
      obtain ⟨-, -, e⟩ | e := stepFinishAdvance_cases s <;> rw [e]
      rfl
    | finishHandshake =>
      cases h
      obtain ⟨-, -, e⟩ | ⟨-, -, -, e⟩ | e := stepFinishHandshake_cases s <;> rw [e] <;> rfl
    | _ => cases hp
  | false =>
    cases hc : moveOfConsumer m with
    | true =>
      obtain ⟨hp, -⟩ := perform_consumer_keeps_p hc h
      rw [State.flags, hp]
      rfl
    | false =>
      have hkeeps := perform_keepsAgents hreset hp hc h
      rw [State.flags, hkeeps.ill, hkeeps.disabled, hkeeps.fAlloc, hkeeps.fDev]
      rfl

/-- A flag that is 1 in `f` is 1 in `g`. -/
def Flags.le (f g : Flags) : Prop :=
  (f.ill = true → g.ill = true) ∧ (f.disabled = true → g.disabled = true) ∧ (f.fAlloc = true → g.fAlloc = true) ∧
  (f.fDev = true → g.fDev = true)

/-- R168: no writer but reset clears a flag. -/
theorem perform_flags_rise {m : Move} {s t : State} (hreset : moveIsReset m = false) (h : perform m s = .next t) :
    s.flags.le t.flags := by
  by_cases haccept : m = .accept
  · subst haccept
    obtain e | ⟨-, -, -, -, e⟩ | ⟨-, -, e⟩ | ⟨-, -, e | e⟩ := accept_flags h <;> rw [e]
    · exact ⟨id, id, id, id⟩
    · exact ⟨fun _ => rfl, id, id, id⟩
    · exact ⟨id, fun _ => rfl, id, id⟩
    · exact ⟨id, id, fun _ => rfl, id⟩
    · exact ⟨id, id, id, fun _ => rfl⟩
  · rw [perform_flags hreset haccept h]
    exact ⟨id, id, id, id⟩

/-- R55: `diag_req` is written by a sink request only, and only to 1. -/
theorem perform_diagReq {m : Move} {s t : State} (hreset : moveIsReset m = false) (h : perform m s = .next t) :
    t.c.diagReq = s.c.diagReq ∨ (m = .sink ∧ t.c.diagReq = true) := by
  cases hp : moveOfProducer m with
  | true => rw [perform_producer_keeps_c hp h]; exact .inl rfl
  | false =>
    cases hc : moveOfConsumer m with
    | false => exact .inl (perform_keepsAgents hreset hp hc h).diagReq
    | true =>
      cases m with
      | sink =>
        obtain ⟨-, rfl⟩ | ⟨w, -, ⟨i, hdec, h⟩ | ⟨r, -, rfl⟩⟩ := stepSink_cases h
        · exact .inl rfl
        · rw [decodeRequest_sink hdec] at h
          obtain ⟨-, rfl⟩ | ⟨-, h⟩ := execSinkReq_cases h
          · exact .inr ⟨rfl, rfl⟩
          · obtain ⟨-, rfl⟩ | ⟨-, -, ws, -, rfl⟩ := serveRequest_cases h <;> exact .inl rfl
        · exact .inr ⟨rfl, rfl⟩
      | start => cases h; obtain ⟨-, -, -, e⟩ | e := stepStart_cases s <;> rw [e] <;> exact .inl rfl
      | stop => cases h; obtain ⟨-, -, e⟩ | e := stepStop_cases s <;> rw [e] <;> exact .inl rfl
      | _ => cases hc

/-! ### The statements -/

/-- Settles O47: a flag's writers other than reset only set it, and FAULT is left by reset only. -/
theorem stickyBitsLastUntilReset : Obligations.StickyBitsLastUntilReset := by
  unfold Obligations.StickyBitsLastUntilReset
  intro m s t hinv hreset h
  obtain ⟨hill, hdis, halloc, hdev⟩ := perform_flags_rise hreset h
  refine ⟨hill, hdis, halloc, hdev, fun hdiag => ?diag, fun heng => perform_keeps_fault hinv heng hreset h⟩
  case diag =>
    obtain hsame | ⟨-, hset⟩ := perform_diagReq hreset h
    · exact hsame.trans hdiag
    · exact hset

/-- Settles O48: the accept step's effect on each flag, and that no other move writes it. -/
theorem statusFlagsHaveOneWriter : Obligations.StatusFlagsHaveOneWriter := by
  unfold Obligations.StatusFlagsHaveOneWriter
  intro m s t hreset h
  have haccept (hne : t.flags ≠ s.flags) : m = .accept := by_contra fun hm => hne (perform_flags hreset hm h)
  refine ⟨fun hill => ?ill, fun hfatal => ?fatal, fun hdis => ?disabled, fun hdiag => ?diag⟩
  case ill =>
    obtain rfl := haccept fun e => hill (congrArg Flags.ill e)
    obtain e | ⟨w, r, hcmd, hdec, -⟩ | ⟨-, -, e⟩ | ⟨-, -, e | e⟩ := accept_flags h
    case inr.inl => exact ⟨rfl, w, r, hcmd, hdec⟩
    all_goals exact absurd (congrArg Flags.ill e) hill
  case fatal =>
    have hcause : t.flags.fAlloc = s.flags.fAlloc → t.flags.fDev ≠ s.flags.fDev := fun halloc =>
      hfatal.resolve_left (not_not.2 halloc)
    obtain rfl := haccept fun e => hcause (congrArg Flags.fAlloc e) (congrArg Flags.fDev e)
    obtain e | ⟨-, -, -, -, e⟩ | ⟨-, -, e⟩ | ⟨req, hreq, -⟩ := accept_flags h
    case inr.inr.inr => exact ⟨rfl, req, hreq⟩
    all_goals exact absurd (congrArg Flags.fDev e :) (hcause (congrArg Flags.fAlloc e :))
  case disabled =>
    obtain rfl := haccept fun e => hdis (congrArg Flags.disabled e)
    obtain e | ⟨-, -, -, -, e⟩ | ⟨req, hreq, -⟩ | ⟨-, -, e | e⟩ := accept_flags h
    case inr.inr.inl => exact ⟨rfl, req, hreq⟩
    all_goals exact absurd (congrArg Flags.disabled e) hdis
  case diag =>
    obtain ⟨hm, -⟩ := (perform_diagReq hreset h).resolve_left hdiag
    exact hm

/-- Settles O49: the RAM and the inputs by `exec_keeps_ram_env`, the schedule by `exec_keeps_schedule`. -/
theorem instructionsLeaveTheRamAlone : Obligations.InstructionsLeaveTheRamAlone := by
  unfold Obligations.InstructionsLeaveTheRamAlone
  intro i s t h
  obtain ⟨hram, hepoch, henv⟩ := exec_keeps_ram_env h
  obtain ⟨hparams, hagenda, hdraws, hlags⟩ := exec_keeps_schedule h
  exact ⟨fun a => by rw [State.ramRead, hram, hepoch]; rfl, hparams, hagenda, hdraws, hlags, henv⟩

/-- Settles O50: the update of each case of each command. -/
theorem commandsKeepTheirFrame : Obligations.CommandsKeepTheirFrame := by
  unfold Obligations.CommandsKeepTheirFrame
  intro s t
  refine ⟨fun h => ?nop, fun idx hidx h => ?csr, fun h => ?close, fun cycles h => ?advance, fun noDev req h => ?opens⟩
  case nop => cases h; rfl
  case csr =>
    obtain ⟨v, hv⟩ := csrValue_defined hidx s
    rw [exec_csrRead_of_some hv] at h
    cases h
    rfl
  case close => obtain ⟨-, rfl⟩ | ⟨-, -, rfl⟩ | ⟨-, rfl⟩ := execClose_cases h <;> rfl
  case advance => obtain ⟨-, rfl⟩ | ⟨-, -, rfl⟩ | ⟨-, rfl⟩ := execAdvance_cases h <;> rfl
  case opens =>
    obtain ⟨-, rfl⟩ | ⟨-, rfl⟩ | ⟨-, -, ⟨-, rfl⟩ | ⟨-, -, rfl⟩ | ⟨-, -, -, rfl⟩ | ⟨-, -, -, rfl⟩⟩ :=
      execOpen_cases h <;> exact ⟨rfl, rfl, rfl, rfl, rfl, rfl, rfl, rfl, rfl⟩

/-- Settles O51: a bad request, silence, and a release with its data. -/
theorem sinkRequestKeepsItsFrame : Obligations.SinkRequestKeepsItsFrame := by
  unfold Obligations.SinkRequestKeepsItsFrame
  exact fun len s t h => execSinkReq_frame h

/-- Settles O52: a producer's move, a consumer's move, and one that is neither. -/
theorem agentsWriteOnlyTheirDomain : Obligations.AgentsWriteOnlyTheirDomain := by
  unfold Obligations.AgentsWriteOnlyTheirDomain
  intro m s t h
  have hread (hram : t.ram = s.ram) (hepoch : t.ramEpoch = s.ramEpoch) (a : Nat) : t.ramRead a = s.ramRead a := by
    rw [State.ramRead, hram, hepoch]
    rfl
  refine ⟨fun hp => perform_producer_keeps_c hp h, fun hc => ?consumer, fun hreset hp => ?notProducer,
    fun hreset hc => ?notConsumer⟩
  case consumer =>
    obtain ⟨hp, hram, hepoch⟩ := perform_consumer_keeps_p hc h
    exact ⟨hp, hread hram hepoch⟩
  case notProducer =>
    cases hc : moveOfConsumer m with
    | true =>
      obtain ⟨hp, hram, hepoch⟩ := perform_consumer_keeps_p hc h
      rw [hp]
      exact ⟨rfl, rfl, rfl, rfl, hread hram hepoch⟩
    | false =>
      have hkeeps := perform_keepsAgents hreset hp hc h
      exact ⟨hkeeps.wrCnt, hkeeps.wrGray, hkeeps.writeIndex, hkeeps.capacity, hread hkeeps.ram hkeeps.epoch⟩
  case notConsumer =>
    cases hp : moveOfProducer m with
    | true =>
      rw [perform_producer_keeps_c hp h]
      exact ⟨rfl, rfl, rfl, rfl⟩
    | false =>
      have hkeeps := perform_keepsAgents hreset hp hc h
      exact ⟨hkeeps.rdCnt, hkeeps.rdGray, hkeeps.readIndex, hkeeps.ackC⟩

end Sys2Proof.Machine
end

section
/-! PROOFS. The legal parameter sets (R5), the choice of the next step and what acceptance runs (R10, R78), the held
response (R74), a placed word, what a reset cuts off (R168), and the statements about them: O53, O57, O58, O59 and O60. -/

namespace Sys2Proof.Machine

open Sys2Proof

/-! ### The next step -/

theorem step_of_legal {s : State} (hlegal : s.params.legal = true) : step s = perform s.nextMove s.scheduled :=
  if_pos hlegal

theorem nextMove_agenda {s : State} {m : Move} {ms : List Move} (hdue : s.overdue = none) (hagenda : s.agenda = m :: ms) :
    s.nextMove = m := by
  rw [State.nextMove, hdue, hagenda]

theorem scheduled_of_overdue {s : State} {v : View} (h : s.overdue = some v) :
    s.scheduled = { s with draws := s.draws + 1, lags := nextLags s, out := Outputs.quiet } := by
  simp [State.scheduled, h]

theorem scheduled_of_agenda {s : State} {m : Move} {ms : List Move} (hdue : s.overdue = none)
    (hagenda : s.agenda = m :: ms) :
    s.scheduled = { s with agenda := ms, draws := s.draws + 1, lags := nextLags s, out := Outputs.quiet } := by
  simp [State.scheduled, hdue, hagenda]

/-- With no view overdue a step performs the head of the agenda. -/
theorem step_agenda {s : State} {m : Move} {ms : List Move} (hlegal : s.params.legal = true) (hdue : s.overdue = none)
    (hagenda : s.agenda = m :: ms) :
    step s = perform m { s with agenda := ms, draws := s.draws + 1, lags := nextLags s, out := Outputs.quiet } := by
  rw [step_of_legal hlegal, nextMove_agenda hdue hagenda, scheduled_of_agenda hdue hagenda]

theorem sink_of_instr {s : State} {w : Word} {i : Instr} (hreq : s.env.req = some w) (hdec : decodeRequest w = .instr i) :
    perform .sink s = exec i { s with env.req := none } := by
  simp only [perform, stepSink, hreq, hdec]

theorem accept_of_busy {s : State} (hready : s.cmdReady = false) : perform .accept s = .next s := by
  simp only [perform, stepAccept, hready]
  split <;> rfl

/-! ### The held response -/

/-- R74, R78: no move but the host's taking it and reset changes a pending response: commands are accepted and completed
only while none is pending. -/
theorem perform_keeps_rsp {m : Move} {s t : State} {r : Response} (hinv : s.Inv) (hrsp : s.p.rsp = some r)
    (htake : m ≠ .hostTake) (hreset : moveIsReset m = false) (h : perform m s = .next t) : t.p.rsp = some r := by
  have hidle : s.p.phase = .idle := hinv.rspIdle (by simp [hrsp])
  cases hc : moveOfConsumer m with
  | true =>
    obtain ⟨hp, -⟩ := perform_consumer_keeps_p hc h
    rw [hp, hrsp]
  | false =>
    cases m with
    | accept =>
      have hbusy : s.cmdReady = false := by simp [State.cmdReady, State.rspValid, hrsp]
      rw [accept_of_busy hbusy] at h
      cases h
      exact hrsp
    | trigger =>
      rw [perform, stepTrigger_held (.inl (by simp [triggerDue, hidle]))] at h
      cases h
      exact hrsp
    | finishAdvance =>
      cases h
      obtain ⟨hphase, -⟩ | e := stepFinishAdvance_cases s
      · simp [hidle] at hphase
      · rw [e, hrsp]
    | finishHandshake =>
      cases h
      obtain ⟨hphase, -⟩ | ⟨hphase, -⟩ | e := stepFinishHandshake_cases s
      · simp [hidle] at hphase
      · simp [hidle] at hphase
      · rw [e, hrsp]
    | hostDrive cmd => obtain rfl | rfl := driveCommand_cases h <;> exact hrsp
    | deviceDrive req => obtain rfl | rfl := driveRequest_cases h <;> exact hrsp
    | sourceDeliver k frames => cases h; cases k <;> exact hrsp
    | syncRd n => cases h; unfold syncRd; split_ifs <;> exact hrsp
    | syncWr n => cases h; rw [syncWr_p, hrsp]
    | platform | syncRun | syncAck | syncDiag => cases h; exact hrsp
    | hostTake => exact absurd rfl htake
    | sink | start | stop => cases hc
    | reset cut => cases hreset
    | crossingViolation | ramOrderViolation => cases h

/-! ### A placed word -/

theorem tableWord_toNat (w : Word) : tableWord 32 w.toNat = w := by
  rw [tableWord, Nat.mod_eq_of_lt w.isLt, BitVec.ofNat_toNat, BitVec.setWidth_eq]

theorem withFetchWord_command {i : Instr} (hport : i.port = .command) (s : State) :
    s.withFetchWord 32 (encode i).toNat =
      { s with env.cmd := some (encode i), p.phase := .idle, p.rsp := none, agenda := .accept :: s.agenda,
               lags := Lags.reset } := by
  rw [State.withFetchWord, tableWord_toNat, State.present, portOf_encode, hport]

theorem withFetchWord_consumer {i : Instr} (hport : i.port = .consumer) (s : State) :
    s.withFetchWord 32 (encode i).toNat =
      { s with env.req := some (encode i), agenda := .sink :: s.agenda, lags := Lags.reset } := by
  rw [State.withFetchWord, tableWord_toNat, State.present, portOf_encode, hport]

/-- The placed word's move is the head of the agenda, and the word decodes to its instruction. -/
theorem step_placedCommand {s : State} {i : Instr} (hlegal : s.params.legal = true) (hport : i.port = .command)
    (hwf : i.wf = true) :
    step (s.withFetchWord 32 (encode i).toNat) =
      exec i { s with env.cmd := none, p.phase := .idle, p.rsp := none, out := Outputs.quiet, draws := s.draws + 1,
                      lags := nextLags (s.withFetchWord 32 (encode i).toNat) } := by
  rw [withFetchWord_command hport, step_agenda (by exact hlegal) (overdue_of_reset rfl) rfl,
    accept_of_instr rfl rfl (decodeCommand_encode hport hwf)]

theorem step_placedRequest {s : State} {i : Instr} (hlegal : s.params.legal = true) (hport : i.port = .consumer)
    (hwf : i.wf = true) :
    step (s.withFetchWord 32 (encode i).toNat) =
      exec i { s with env.req := none, out := Outputs.quiet, draws := s.draws + 1,
                      lags := nextLags (s.withFetchWord 32 (encode i).toNat) } := by
  have hdec : decodeRequest (encode i) = .instr i := by rw [← decodeOn_encode hwf, hport]; rfl
  rw [withFetchWord_consumer hport, step_agenda (by exact hlegal) (overdue_of_reset rfl) rfl, sink_of_instr rfl hdec]

/-! ### What a reset cuts off -/

theorem consume_of_read {s : State} {ws : List Word} (hdata : s.countC ≠ 0)
    (hws : readFrames s.params.ramWords s.ram s.ramEpoch (frameAddr s.params s.c.readIndex.toNat 0) s.params.fblen =
      .ok ws) : consume s = .data ws (release s) := by
  rw [consume, if_neg hdata, hws]

/-- The answer to a request depends on no output before it. -/
theorem serveRequest_out {s t : State} (h : serveRequest s = .next t) (o : Outputs) :
    serveRequest { s with out := o } = .next { t with out := { o with answer := t.out.answer } } := by
  obtain ⟨hsilent, rfl⟩ | ⟨hack, hdata, ws, hws, rfl⟩ := serveRequest_cases h
  · cases hack : s.c.ackC with
    | false => exact serveRequest_stopped (s := { s with out := o }) hack
    | true =>
      have hempty : s.countC = 0 := hsilent.resolve_left (by simp [hack])
      exact serveRequest_underrun (s := { s with out := o }) hack hempty
  · have hconsume := consume_of_read (s := { s with out := o }) hdata hws
    simp only [serveRequest, hack, hconsume]
    rfl

theorem stepSink_out {s t : State} (hreq : s.env.req ≠ none) (h : stepSink s = .next t) (o : Outputs) :
    stepSink { s with out := o } = .next { t with out := { o with answer := t.out.answer } } := by
  obtain ⟨hnone, -⟩ | ⟨w, hw, ⟨i, hdec, h⟩ | ⟨r, hdec, rfl⟩⟩ := stepSink_cases h
  · exact absurd hnone hreq
  · have hsink := sink_of_instr (s := { s with out := o }) hw hdec
    rw [decodeRequest_sink hdec] at h hsink
    refine hsink.trans ?_
    obtain ⟨hlen, rfl⟩ | ⟨hlen, h⟩ := execSinkReq_cases h
    · exact exec_sinkReq_of_ne (s := { s with out := o, env.req := none }) hlen
    · exact (exec_sinkReq_of_eq (s := { s with out := o, env.req := none }) hlen).trans (serveRequest_out h o)
  · exact (sink_of_reject (s := { s with out := o }) hw hdec).trans (by rw [← payloadField_toNat]; rfl)

/-- A stream that is cut off shows its first frames, and its request is gone. -/
theorem cutStream_of_answer {s u : State} {a : Answer} (hreq : s.env.req ≠ none) (h : stepSink s = .next u)
    (ha : u.out.answer = some a) (n : Nat) (o : Outputs) :
    cutStream (some n) { s with out := o } = State.emit { s with out := o, env.req := none } (a.cutAfter n) := by
  obtain ⟨w, hw⟩ := Option.ne_none_iff_exists'.1 hreq
  have hanswer : State.answerNow { s with out := o } = some a :=
    (answerNow_eq (s := { s with out := o }) hw (stepSink_out hreq h o)).trans ha
  rw [cutStream, hanswer]

/-- Without a request, or with no stream begun, nothing is cut off. -/
theorem cutStream_nothing {s : State} {n : Option Nat} (h : s.env.req = none ∨ n = none) : cutStream n s = s := by
  obtain ⟨-, e⟩ | ⟨k, a, rfl, ha, -⟩ := cutStream_cases n s
  · exact e
  · have hreq := h.resolve_right (by simp)
    simp [State.answerNow, hreq] at ha

theorem cutStream_keeps (n : Option Nat) (s : State) :
    (cutStream n s).env = { s.env with req := (cutStream n s).env.req } := by
  obtain ⟨-, e⟩ | ⟨k, a, -, -, e⟩ := cutStream_cases n s <;> rw [e]
  rfl

theorem cutRender_keeps (n : Option (Nat × Nat × Nat)) (s : State) :
    (cutRender n s).env = { s.env with psg := (cutRender n s).env.psg, pcm := (cutRender n s).env.pcm,
                                       fm := (cutRender n s).env.fm } ∧
    (cutRender n s).out.answer = s.out.answer := by
  obtain ⟨-, e⟩ | ⟨a, b, c, -, -, e⟩ := cutRender_cases n s <;> rw [e] <;> exact ⟨rfl, rfl⟩

theorem cutRender_of_due {s : State} (hdue : triggerDue s = true) (a b c : Nat) :
    cutRender (some (a, b, c)) s =
      { s with env.psg := s.env.psg.drop (min a s.params.fblen), env.pcm := s.env.pcm.drop (min b s.params.fblen),
               env.fm := s.env.fm.drop (min c s.params.fblen), out.srcStart := true } :=
  if_pos hdue

theorem triggerDue_cutStream (n : Option Nat) (s : State) : triggerDue (cutStream n s) = triggerDue s := by
  simp [triggerDue]

/-- What no cut touches: the command, `dev_ok` and `dev_rate`. -/
theorem stepReset_keeps (cut : Cut) (s : State) :
    (stepReset cut s).env.cmd = s.env.cmd ∧ (stepReset cut s).env.devOk = s.env.devOk ∧
    (stepReset cut s).env.devRate = s.env.devRate := by
  obtain ⟨hrender, -⟩ := cutRender_keeps cut.render (cutStream cut.stream { s with out := Outputs.quiet })
  rw [cutStream_keeps] at hrender
  have hcmd := congrArg Env.cmd hrender
  have hdevOk := congrArg Env.devOk hrender
  have hdevRate := congrArg Env.devRate hrender
  exact ⟨hcmd, hdevOk, hdevRate⟩

/-- The request and the answer that a reset leaves are those of its cut stream. -/
theorem stepReset_stream (cut : Cut) (s : State) :
    (stepReset cut s).env.req = (cutStream cut.stream { s with out := Outputs.quiet }).env.req ∧
    (stepReset cut s).out.answer = (cutStream cut.stream { s with out := Outputs.quiet }).out.answer := by
  obtain ⟨hrender, hanswer⟩ := cutRender_keeps cut.render (cutStream cut.stream { s with out := Outputs.quiet })
  have hreq := congrArg Env.req hrender
  exact ⟨hreq, hanswer⟩

/-- The frames that a reset leaves in the sources are those of its cut trigger. -/
theorem stepReset_render {cut : Cut} {s : State} {i j k : Nat} (hcut : cut.render = some (i, j, k))
    (hdue : triggerDue s = true) :
    (stepReset cut s).out.srcStart = true ∧
    (stepReset cut s).env.psg = s.env.psg.drop (min i s.params.fblen) ∧
    (stepReset cut s).env.pcm = s.env.pcm.drop (min j s.params.fblen) ∧
    (stepReset cut s).env.fm = s.env.fm.drop (min k s.params.fblen) := by
  have hdue' : triggerDue (cutStream cut.stream { s with out := Outputs.quiet }) = true :=
    (triggerDue_cutStream cut.stream { s with out := Outputs.quiet }).trans hdue
  rw [stepReset, hcut, cutRender_of_due hdue', cutStream_keeps, cutStream_params]
  exact ⟨rfl, rfl, rfl, rfl⟩

/-! ### The statements -/

/-- Settles O53: the registers by `afterReset`, what is cut off by `cutStream` and `cutRender`. -/
theorem resetGivesTheTable : Obligations.ResetGivesTheTable := by
  unfold Obligations.ResetGivesTheTable
  intro s cut
  obtain ⟨hcmd, hdevOk, hdevRate⟩ := stepReset_keeps cut s
  obtain ⟨hreq, hanswer⟩ := stepReset_stream cut s
  refine ⟨stepReset cut s, rfl, rfl, rfl, rfl, rfl, stepReset_params cut s, hcmd, hdevOk, hdevRate, ?nothing, ?stream,
    fun hnone => ?noStream, fun i j k hcut hdue => stepReset_render hcut hdue⟩
  case nothing => rintro rfl; exact ⟨rfl, rfl⟩
  case stream =>
    intro n t a hn hpresented hsink ha
    rw [hn, cutStream_of_answer hpresented hsink ha] at hreq hanswer
    exact ⟨hreq, a.cutAfter n, hanswer, rfl, rfl⟩
  case noStream =>
    have hsame : cutStream cut.stream { s with out := Outputs.quiet } = { s with out := Outputs.quiet } :=
      cutStream_nothing hnone
    rw [hsame] at hreq hanswer
    exact ⟨hanswer, hreq⟩

/-- Settles O57: R5's conditions are the conjuncts of `legal`. -/
theorem illegalParametersAreRefused : Obligations.IllegalParametersAreRefused := by
  unfold Obligations.IllegalParametersAreRefused
  refine ⟨by decide, fun s => ⟨?legal, fun hillegal => if_neg (by simp [hillegal])⟩⟩
  case legal =>
    simp only [Params.legal, Bool.and_eq_true, decide_eq_true_eq, and_assoc]
    rfl

/-- Settles O58: the choice of the step, the accept and sink steps by what the word decodes to, and the held response. -/
theorem stepRunsTheDecodedInstruction : Obligations.StepRunsTheDecodedInstruction := by
  unfold Obligations.StepRunsTheDecodedInstruction
  refine ⟨fun s ms w i hlegal => ?step, fun s hbusy => ?busy,
    fun s t m r hinv hrsp htake hreset h => perform_keeps_rsp hinv hrsp htake hreset h, fun s => rfl⟩
  case step =>
    intro now
    refine ⟨?overdue, fun m hdue hagenda => step_agenda hlegal hdue hagenda, ?accept, ?sink⟩
    case overdue =>
      rintro v hdue rfl
      rw [step_of_legal hlegal, nextMove_overdue hdue, scheduled_of_overdue hdue]
      rfl
    case accept =>
      intro hdue hagenda hcmd hidle hrsp hdec
      rw [step_agenda hlegal hdue hagenda]
      exact accept_of_instr hcmd ((cmdReady_iff _).2 ⟨hidle, hrsp⟩) hdec
    case sink =>
      intro hdue hagenda hreq hdec
      rw [step_agenda hlegal hdue hagenda]
      exact sink_of_instr hreq hdec
  case busy =>
    have hready : s.cmdReady = false := eq_false_of_ne_true fun hready => by
      obtain ⟨hidle, hrsp⟩ := (cmdReady_iff s).1 hready
      exact hbusy.elim (fun h => h hidle) (fun h => h hrsp)
    exact ⟨hready, accept_of_busy hready⟩

/-- Settles O59, port by port. -/
theorem placedWordRunsNext : Obligations.PlacedWordRunsNext := by
  unfold Obligations.PlacedWordRunsNext
  intro s i hlegal hwf placed now
  cases hport : i.port with
  | command => exact step_placedCommand hlegal hport hwf
  | consumer => exact step_placedRequest hlegal hport hwf

/-- Settles O60: the environment's two refusals. -/
theorem unstableWordsAreRefused : Obligations.UnstableWordsAreRefused := by
  unfold Obligations.UnstableWordsAreRefused
  refine fun s w v hv => ⟨fun hcmd => ?command, fun hreq => ?request⟩
  case command => simp only [perform, driveCommand, hcmd, if_neg hv]
  case request => simp only [perform, driveRequest, hreq, if_neg hv]

end Sys2Proof.Machine
end

section
/-! PROOFS. The assembler's two operands with a rule of their own (R92, R93), the mixer's arithmetic (R110, R114), the
capacity clamp (R115) and the beats of an answer (R134, R168), and the statements about them: O6, O7, O18, O19, O24 and
O33. -/

namespace Sys2Proof.Machine

open Sys2Proof

/-! ### The assembler -/

theorem toNat_allOnes_28 : (BitVec.allOnes 28).toNat = maxCycles := by decide

/-- The cycle operands of `ADVANCE* n`: full ones and one for the remainder (R92). -/
def advanceOperands (n : Nat) : List (BitVec 28) :=
  List.replicate (n / maxCycles) (BitVec.allOnes 28) ++
    if n % maxCycles = 0 then [] else [BitVec.ofNat 28 (n % maxCycles)]

theorem expandAdvance_eq (n : Nat) : expandAdvance n = (advanceOperands n).map Instr.advance := by
  have hmax : BitVec.ofNat 28 maxCycles = BitVec.allOnes 28 := by decide
  rw [expandAdvance, advanceOperands, List.map_append, List.map_replicate, hmax]
  split <;> rfl

theorem advanceOperands_length (n : Nat) :
    (advanceOperands n).length = n / maxCycles + if n % maxCycles = 0 then 0 else 1 := by
  rw [advanceOperands, List.length_append, List.length_replicate]
  split <;> rfl

theorem advanceOperands_take (n : Nat) :
    (advanceOperands n).take (n / maxCycles) = List.replicate (n / maxCycles) (BitVec.allOnes 28) :=
  List.take_left' List.length_replicate

/-- The full operands are the quotient's share of `n`, the last one is the remainder, which fits 28 bits. -/
theorem advanceOperands_sum (n : Nat) : ((advanceOperands n).map BitVec.toNat).sum = n := by
  have hrest : (BitVec.ofNat 28 (n % maxCycles)).toNat = n % maxCycles :=
    Nat.mod_eq_of_lt ((Nat.mod_lt n (by decide)).trans (by decide))
  have hlast : ((if n % maxCycles = 0 then [] else [BitVec.ofNat 28 (n % maxCycles)]).map BitVec.toNat).sum =
      n % maxCycles := by
    split
    case isTrue h => simp [h]
    case isFalse => rw [List.map_singleton, List.sum_singleton, hrest]
  rw [advanceOperands, List.map_append, List.sum_append, hlast, List.map_replicate, List.sum_replicate, toNat_allOnes_28,
    smul_eq_mul, Nat.div_add_mod']

theorem assembleLine_openReq_of_fits {q : Params} {r : Int} (h : -8388608 ≤ r ∧ r ≤ 8388607) :
    assembleLine q (.openReq r) = some [encode (.openEngine false (BitVec.ofInt 24 r))] := by
  simp [assembleLine, assembleInstrs, h]

theorem assembleLine_openReq_of_not_fits {q : Params} {r : Int} (h : ¬ (-8388608 ≤ r ∧ r ≤ 8388607)) :
    assembleLine q (.openReq r) = none := by
  rw [assembleLine, assembleInstrs, if_neg h, Option.map_none]

/-! ### The mixer -/

/-- R109: the truncated third of three samples' sum is a sample's value. -/
theorem tdiv_sum_range (a b c : Sample) :
    -32768 ≤ (a.toInt + b.toInt + c.toInt).tdiv 3 ∧ (a.toInt + b.toInt + c.toInt).tdiv 3 ≤ 32767 := by
  have hrange (x : Sample) : -2 ^ 15 ≤ x.toInt ∧ x.toInt < 2 ^ 15 := ⟨x.le_toInt, x.toInt_lt⟩
  obtain ⟨ha, ha'⟩ := hrange a
  obtain ⟨hb, hb'⟩ := hrange b
  obtain ⟨hc, hc'⟩ := hrange c
  have hmin : (-98304 : Int).tdiv 3 ≤ (a.toInt + b.toInt + c.toInt).tdiv 3 := Int.tdiv_le_tdiv (by decide) (by omega)
  have hmax : (a.toInt + b.toInt + c.toInt).tdiv 3 ≤ (98301 : Int).tdiv 3 := Int.tdiv_le_tdiv (by decide) (by omega)
  exact ⟨hmin, hmax⟩

theorem sat16_of_range {q : Int} (hmin : -32768 ≤ q) (hmax : q ≤ 32767) : sat16 q = q := by
  rw [sat16, max_eq_left hmin, min_eq_left hmax]

/-- A lane depends on the exact sum only. -/
theorem mixLane_congr {a b c d e f : Sample}
    (h : a.toInt + b.toInt + c.toInt = d.toInt + e.toInt + f.toInt) : mixLane a b c = mixLane d e f := by
  apply BitVec.eq_of_toInt_eq
  rw [mixLane_toInt, mixLane_toInt, h]

theorem mixLane_swap_first (a b c : Sample) : mixLane a b c = mixLane b a c :=
  mixLane_congr (by rw [Int.add_comm a.toInt])

theorem mixLane_swap_last (a b c : Sample) : mixLane a b c = mixLane a c b :=
  mixLane_congr (Int.add_right_comm _ _ _)

/-! ### The beats of an answer -/

@[simp] theorem Answer.words_length (a : Answer) : a.words.length = a.length := by
  cases a with
  | silence len => exact List.length_replicate
  | buffer frames | cut frames => rfl

theorem markLast_map_fst (ws : List Word) : (markLast ws).map Prod.fst = ws := by
  induction ws using markLast.induct with
  | case1 | case2 => rfl
  | case3 w v ws ih => rw [markLast, List.map_cons, ih]

@[simp] theorem markLast_length (ws : List Word) : (markLast ws).length = ws.length := by
  rw [← List.length_map Prod.fst, markLast_map_fst]

theorem markLast_last_iff (ws : List Word) (i : Nat) (h : i < (markLast ws).length) :
    (markLast ws)[i].2 = true ↔ i + 1 = (markLast ws).length := by
  induction ws using markLast.induct generalizing i with
  | case1 => simp [markLast] at h
  | case2 w => simp [markLast] at h ⊢; omega
  | case3 w v ws ih =>
    cases i with
    | zero => simp [markLast]
    | succ i => simpa [markLast] using ih i (by simpa [markLast] using h)

theorem Answer.beats_map_fst (a : Answer) : a.beats.map Prod.fst = a.words := by
  cases a with
  | silence len => exact markLast_map_fst _
  | buffer frames => exact markLast_map_fst frames
  | cut frames => exact List.map_map.trans (List.map_id frames)

@[simp] theorem Answer.beats_length (a : Answer) : a.beats.length = a.length := by
  rw [← Answer.words_length, ← a.beats_map_fst, List.length_map]

theorem Answer.cutAfter_length (a : Answer) (n : Nat) : (a.cutAfter n).length = min n (a.length - 1) := by
  have hlen : (a.cutAfter n).length = (a.words.take (min n (a.length - 1))).length := rfl
  rw [hlen, List.length_take, Answer.words_length]
  omega

/-! ### The statements -/

/-- Settles O6: `advanceOperands` are the operands. -/
theorem advanceStarCoversItsCycles : Obligations.AdvanceStarCoversItsCycles := by
  unfold Obligations.AdvanceStarCoversItsCycles
  intro n
  exact ⟨advanceOperands n, expandAdvance_eq n, advanceOperands_sum n, advanceOperands_length n, advanceOperands_take n⟩

/-- Settles O7: an integer that fits 24 bits is what its two's complement reads back as. -/
theorem openOperandIsSignedOrRefused : Obligations.OpenOperandIsSignedOrRefused := by
  unfold Obligations.OpenOperandIsSignedOrRefused
  refine fun q r => ⟨fun hfits => ?fits, fun hnot => assembleLine_openReq_of_not_fits hnot⟩
  case fits =>
    obtain ⟨-, -, hreq⟩ := openFields_encode false (BitVec.ofInt 24 r)
    obtain ⟨hmin, hmax⟩ := hfits
    refine ⟨_, assembleLine_openReq_of_fits ⟨hmin, hmax⟩, ?_, ?_⟩
    · rw [hreq]
      exact decodeCommand_encode rfl rfl
    · rw [hreq]
      exact BitVec.toInt_ofInt_eq_self (by decide) hmin (Int.lt_of_le_sub_one hmax)

/-- Settles O18, by the range of the third of a sum of three samples. -/
theorem saturationNeverActs : Obligations.SaturationNeverActs := by
  unfold Obligations.SaturationNeverActs
  intro a b c
  obtain ⟨hmin, hmax⟩ := tdiv_sum_range a b c
  exact sat16_of_range hmin hmax

/-- Settles O19: a mixed frame is its two lanes, each a function of the sum of that lane. -/
theorem mixIsSymmetricAndPerChannel : Obligations.MixIsSymmetricAndPerChannel := by
  unfold Obligations.MixIsSymmetricAndPerChannel
  refine fun a b c d e f => ⟨?first, ?last, fun ha hb hc => ?left, fun ha hb hc => ?right⟩
  case first => rw [mixFrame, mixLane_swap_first, mixLane_swap_first (rightLane a)]; rfl
  case last => rw [mixFrame, mixLane_swap_last, mixLane_swap_last (rightLane a)]; rfl
  case left => rw [leftLane_mixFrame, leftLane_mixFrame, ha, hb, hc]
  case right => rw [rightLane_mixFrame, rightLane_mixFrame, ha, hb, hc]

/-- Settles O24, by the definition of the clamp. -/
theorem clampIsTheIntervalRule : Obligations.ClampIsTheIntervalRule := by
  unfold Obligations.ClampIsTheIntervalRule
  refine ⟨fun r => ?_, by decide, by decide⟩
  obtain ⟨hmin, hmax⟩ := clampCap_range r
  refine ⟨hmin, hmax, fun h h' => ?inside, fun h => ?below, fun h => ?above⟩ <;> simp only [clampCap, capMin, capMax]
  case inside => omega
  case below => omega
  case above => omega

/-- Settles O33: by the recursion of `markLast` for a whole answer, and by the length of a cut one. -/
theorem lastBeatIsMarkedOnce : Obligations.LastBeatIsMarkedOnce := by
  unfold Obligations.LastBeatIsMarkedOnce
  refine ⟨fun a => ⟨a.beats_map_fst, a.beats_length, fun hwhole => ?whole, ?cut⟩,
    fun a n => ⟨⟨_, rfl⟩, List.take_prefix _ _, fun hn => ?taken, fun hlen => ?fewer⟩⟩
  case whole =>
    cases a with
    | silence len => exact markLast_last_iff _
    | buffer frames => exact markLast_last_iff frames
    | cut frames => exact absurd rfl (hwhole frames)
  case cut =>
    rintro ws rfl i h
    simp [Answer.beats]
  case taken => rw [Answer.cutAfter_length]; omega
  case fewer => rw [Answer.cutAfter_length]; omega

end Sys2Proof.Machine
end
